-- ==== Sys2Proof/Config.lean ====
section
/-! DEFINITION. The parameters of I2B-PACK: those the source fixes (spec/00_scope.md R5) and those the spec fixes (R6).

The spec leaves no value that the block computes open (R8, item 6), so there is no free value here. The open parameters
PAL_DEPTH, BYTE_DEPTH, LAT_CMD and F_CLK (R7) affect no value and are omitted, as R7 and V5 of
spec/93_implementation_defined.md let a model without time do (notes/assumptions/4.md). -/

namespace Sys2Proof.Config

/-- CHW: the width of one colour channel (R5). -/
def chw : Nat := 8

/-- The width of a colour entry, three channels (R5). -/
def colourEntryWidth : Nat := 3 * chw

/-- PALW: the width of a packed colour word (R5). -/
def palw : Nat := 16

/-- MINBPP (R5). -/
def minBpp : Nat := 1

/-- MAXBPP (R5). -/
def maxBpp : Nat := 8

/-- N: the size of the palette at `bpp` bits per pixel, and the bound of an index (R5). -/
def paletteSize (bpp : Nat) : Nat := 2 ^ bpp

/-- BYTEW: the width of a packed byte (R5). -/
def bytew : Nat := 8

/-- CMDW: the width of a command word (R6). -/
def cmdw : Nat := 32

/-- DIMW: the width of the WIDTH and HEIGHT registers (R6). -/
def dimw : Nat := 16

/-- IDXW: the width of PUSH's operand (R6). -/
def idxw : Nat := 8

/-- BPPFW: the width of START's operand (R6). -/
def bppfw : Nat := 8

end Sys2Proof.Config
end

