-- ==== Sys2Proof/Word.lean ====
section
/-! DEFINITION. The bit vectors the spec names (spec/00_scope.md R5, R6, section 8): all unsigned, bit 0 the least
significant. Their widths are the constants of Sys2Proof/Config.lean, written as numerals so that BitVec lemmas apply
(Tests/Slice0.lean, test_widths_are_the_parameters). -/

namespace Sys2Proof

/-- A command word (R39). -/
abbrev Word := BitVec 32

/-- One colour channel, 0 to 255 (R5). -/
abbrev Channel := BitVec 8

/-- A packed, byte-swapped RGB565 word (R5, R34). -/
abbrev PalWord := BitVec 16

/-- A byte of the packed stream (R5). -/
abbrev Byte := BitVec 8

/-- A width, height or pixel coordinate (R6). -/
abbrev Dim := BitVec 16

/-- The index operand of PUSH (R6). -/
abbrev Index := BitVec 8

/-- The bpp operand of START, wide enough for values that are refused (R6, R44). -/
abbrev BppField := BitVec 8

end Sys2Proof
end

