-- ==== Sys2Proof/Syntax.lean ====
section
/-! DEFINITION. The six commands of spec/30_encoding.md R42 as one inductive, a row of the opcode table as a structure, and
the statements of the assembler (R49, R50). -/

namespace Sys2Proof

/-- A command, one constructor per row of spec/opcode_table.json. The operands are the contiguous unsigned fields of R41. -/
inductive Instr where
  /-- NOP (spec/42_housekeeping.md R64). -/
  | nop
  /-- PACKC r, g, b (spec/40_color_packer.md R52). -/
  | packc (r g b : Channel)
  /-- SETW w (spec/41_bit_packer.md R56). -/
  | setw (w : Dim)
  /-- SETH h (spec/41_bit_packer.md R57). -/
  | seth (h : Dim)
  /-- START bpp (spec/41_bit_packer.md R58). -/
  | start (bpp : BppField)
  /-- PUSH idx (spec/41_bit_packer.md R59). -/
  | push (idx : Index)
deriving DecidableEq, Repr

/-- The mnemonic of a command, as the opcode table spells it. -/
def Instr.mnemonic : Instr → String
  | .nop => "NOP"
  | .packc _ _ _ => "PACKC"
  | .setw _ => "SETW"
  | .seth _ => "SETH"
  | .start _ => "START"
  | .push _ => "PUSH"

/-- Commands that may stand anywhere in a frame without touching it (spec/41_bit_packer.md R61: "any number of NOP and PACKC
commands anywhere among them"). -/
def Instr.isTransparent : Instr → Bool
  | .nop => true
  | .packc _ _ _ => true
  | .setw _ => false
  | .seth _ => false
  | .start _ => false
  | .push _ => false

/-- Whether a command is a PUSH. -/
def Instr.isPush : Instr → Bool
  | .push _ => true
  | .nop => false
  | .packc _ _ _ => false
  | .setw _ => false
  | .seth _ => false
  | .start _ => false

/-- A row of the opcode map: a word is the command of the row when `word &&& mask = pattern` (R42). -/
structure OpcodeRow where
  mnemonic : String
  pattern : Word
  mask : Word
deriving DecidableEq, Repr

/-- A statement of the assembler: the seven forms of R49 and the three pseudo-instructions of R50. Operands are numbers as
written; Sys2Proof/WellFormed.lean checks their ranges. -/
inductive Asm where
  | nop
  | packc (r g b : Nat)
  | setw (w : Nat)
  | seth (h : Nat)
  | start (bpp : Nat)
  | push (idx : Nat)
  /-- `.word v` -/
  | word (v : Nat)
  /-- `PALETTE (r0,g0,b0), (r1,g1,b1), ...` -/
  | palette (entries : List (Nat × Nat × Nat))
  /-- `FRAME bpp, W, H, [p0, p1, ...]` -/
  | frame (bpp w h : Nat) (pixels : List Nat)
  /-- `CONVERT bpp, W, H, palette, pixels` -/
  | convert (bpp w h : Nat) (entries : List (Nat × Nat × Nat)) (pixels : List Nat)
deriving DecidableEq, Repr

end Sys2Proof
end

