-- ==== Sys2Proof/WellFormed.lean ====
section
/-! DEFINITION. What a well-formed command and a well-formed assembler statement are (spec/30_encoding.md R41, R44, R49, R50). -/

namespace Sys2Proof

/-- Every operand value of every command decodes (R41, R44, R52), and the fields' types hold exactly those values, so the check
passes for each constructor. Which values a command accepts is decided when it executes, not here (R44). -/
def Instr.wellFormed : Instr → Bool
  | .nop => true
  | .packc _ _ _ => true
  | .setw _ => true
  | .seth _ => true
  | .start _ => true
  | .push _ => true

/-- The ranges of "operand ranges the assembler accepts" for a triple of channels (R49). -/
def triplesInRange (entries : List (Nat × Nat × Nat)) : Bool :=
  entries.all fun e => decide (e.1 < 256) && decide (e.2.1 < 256) && decide (e.2.2 < 256)

/-- The operands of FRAME: each in the range of the command it expands to (R49), and one pixel per cell of the W x H image,
since R50 lists p0 to p(W*H-1) (notes/assumptions/8.md). -/
def frameInRange (bpp w h : Nat) (pixels : List Nat) : Bool :=
  decide (bpp < 256) && decide (w < 65536) && decide (h < 65536) && decide (pixels.length = w * h) &&
    pixels.all fun p => decide (p < 256)

/-- The operand ranges of R49, and of R50 through its expansions. -/
def Asm.wellFormed : Asm → Bool
  | .nop => true
  | .packc r g b => triplesInRange [(r, g, b)]
  | .setw w => decide (w < 65536)
  | .seth h => decide (h < 65536)
  | .start bpp => decide (bpp < 256)
  | .push idx => decide (idx < 256)
  | .word v => decide (v < 4294967296)
  | .palette entries => triplesInRange entries
  | .frame bpp w h pixels => frameInRange bpp w h pixels
  | .convert bpp w h entries pixels => triplesInRange entries && frameInRange bpp w h pixels

end Sys2Proof
end

