-- ==== Sys2Proof/Decode.lean ====
section
/-! DEFINITION. The decoder (spec/30_encoding.md R45, R47), total on the 2^32 words; the opcode map it must agree with (R42);
the encoder (R40, R42); the assembler (R49, R50). -/

namespace Sys2Proof

/-! ## Decoding -/

/-- Why a word is illegal: the four cases of R47. -/
inductive IllegalReason where
  /-- R47 (a): opcode 0x06 to 0xFF. -/
  | reservedOpcode
  /-- R47 (b): opcode 0x00 and a non-zero operand field. -/
  | nonzeroNop
  /-- R47 (c): opcode 0x02 or 0x03 and a non-zero bit in 23:16. -/
  | reservedDimBits
  /-- R47 (d): opcode 0x04 or 0x05 and a non-zero bit in 23:8. -/
  | reservedByteBits
deriving DecidableEq, Repr

/-- What the decoder answers: a command, or ILLEGAL(cmd) with the reason (R45, R47). -/
inductive Decoded where
  | legal (i : Instr)
  | illegal (why : IllegalReason) (cmd : Word)
deriving DecidableEq, Repr

/-- `op = cmd[31:24]` (R39). -/
def opcodeField (cmd : Word) : BitVec 8 := cmd.extractLsb' 24 8

/-- `cmd[23:0]` (R39). -/
def operandField (cmd : Word) : BitVec 24 := cmd.extractLsb' 0 24

/-- `cmd[23:16]`: red in format C, reserved in format D (R40, R41). -/
def fieldR (cmd : Word) : BitVec 8 := cmd.extractLsb' 16 8

/-- `cmd[15:8]`: green in format C (R41). -/
def fieldG (cmd : Word) : BitVec 8 := cmd.extractLsb' 8 8

/-- `cmd[7:0]`: blue in format C, imm8 in format B (R41). -/
def imm8 (cmd : Word) : BitVec 8 := cmd.extractLsb' 0 8

/-- `cmd[15:0]`: imm16 in format D (R41). -/
def imm16 (cmd : Word) : BitVec 16 := cmd.extractLsb' 0 16

/-- `cmd[23:8]`: reserved in format B (R40). -/
def reservedB (cmd : Word) : BitVec 16 := cmd.extractLsb' 8 16

/-- The decoding procedure of R45. -/
def decode (cmd : Word) : Decoded :=
  let op := opcodeField cmd
  if op = 0x00#8 then
    if operandField cmd = 0 then .legal .nop else .illegal .nonzeroNop cmd
  else if op = 0x01#8 then
    .legal (.packc (fieldR cmd) (fieldG cmd) (imm8 cmd))
  else if op = 0x02#8 then
    if fieldR cmd = 0 then .legal (.setw (imm16 cmd)) else .illegal .reservedDimBits cmd
  else if op = 0x03#8 then
    if fieldR cmd = 0 then .legal (.seth (imm16 cmd)) else .illegal .reservedDimBits cmd
  else if op = 0x04#8 then
    if reservedB cmd = 0 then .legal (.start (imm8 cmd)) else .illegal .reservedByteBits cmd
  else if op = 0x05#8 then
    if reservedB cmd = 0 then .legal (.push (imm8 cmd)) else .illegal .reservedByteBits cmd
  else .illegal .reservedOpcode cmd

/-- The instruction of a decoded word, if it has one. -/
def Decoded.instr? : Decoded → Option Instr
  | .legal i => some i
  | .illegal _ _ => none

/-- A command word is one parallel 32-bit item (spec/20_memory.md R26, R30), numbered as the opcode table numbers it; bits at
and above `nbits` are zero. -/
def tableWord (nbits w : Nat) : Word := BitVec.ofNat 32 (w % 2 ^ nbits)

/-- What the decoder reads from a word given in the opcode table's numbering. -/
def decodeTableWord (nbits w : Nat) : Option Instr := (decode (tableWord nbits w)).instr?

/-- The opcode map of R42. -/
def opcodeTable : List OpcodeRow :=
  [ ⟨"NOP",   0x00000000#32, 0xFFFFFFFF#32⟩,
    ⟨"PACKC", 0x01000000#32, 0xFF000000#32⟩,
    ⟨"SETW",  0x02000000#32, 0xFFFF0000#32⟩,
    ⟨"SETH",  0x03000000#32, 0xFFFF0000#32⟩,
    ⟨"START", 0x04000000#32, 0xFFFFFF00#32⟩,
    ⟨"PUSH",  0x05000000#32, 0xFFFFFF00#32⟩ ]

/-- `cmd & mask = match` (R42). -/
def OpcodeRow.matches (row : OpcodeRow) (cmd : Word) : Bool := cmd &&& row.mask == row.pattern

/-- The row of the opcode map that a command is written from. -/
def rowOf : Instr → OpcodeRow
  | .nop => ⟨"NOP", 0x00000000#32, 0xFFFFFFFF#32⟩
  | .packc _ _ _ => ⟨"PACKC", 0x01000000#32, 0xFF000000#32⟩
  | .setw _ => ⟨"SETW", 0x02000000#32, 0xFFFF0000#32⟩
  | .seth _ => ⟨"SETH", 0x03000000#32, 0xFFFF0000#32⟩
  | .start _ => ⟨"START", 0x04000000#32, 0xFFFFFF00#32⟩
  | .push _ => ⟨"PUSH", 0x05000000#32, 0xFFFFFF00#32⟩

/-! ## Encoding -/

/-- Format C: opcode in 31:24, red in 23:16, green in 15:8, blue in 7:0 (R40). -/
def formatC (op : BitVec 8) (r g b : Channel) : Word :=
  (op.setWidth 32 <<< 24) ||| (r.setWidth 32 <<< 16) ||| (g.setWidth 32 <<< 8) ||| b.setWidth 32

/-- Format D: opcode in 31:24, zeros in 23:16, imm16 in 15:0 (R40). -/
def formatD (op : BitVec 8) (imm : Dim) : Word := (op.setWidth 32 <<< 24) ||| imm.setWidth 32

/-- Format B: opcode in 31:24, zeros in 23:8, imm8 in 7:0 (R40). -/
def formatB (op : BitVec 8) (imm : BitVec 8) : Word := (op.setWidth 32 <<< 24) ||| imm.setWidth 32

/-- The word of a command (R40, R42). -/
def encode : Instr → Word
  | .nop => 0x00000000#32
  | .packc r g b => formatC 0x01#8 r g b
  | .setw w => formatD 0x02#8 w
  | .seth h => formatD 0x03#8 h
  | .start bpp => formatB 0x04#8 bpp
  | .push idx => formatB 0x05#8 idx

/-! ## Assembler -/

/-- The expansion of PALETTE: one PACKC per entry, in palette order (R50); an empty palette expands to nothing
(notes/assumptions/8.md). -/
def paletteExpansion (entries : List (Nat × Nat × Nat)) : List Asm :=
  entries.map fun e => .packc e.1 e.2.1 e.2.2

/-- The expansion of FRAME: SETW, SETH, START, then one PUSH per cell in row-major order (R50). -/
def frameExpansion (bpp w h : Nat) (pixels : List Nat) : List Asm :=
  .setw w :: .seth h :: .start bpp :: pixels.map .push

/-- The expansion of the pseudo-instructions (R50); a command of R49 stands for itself. -/
def Asm.expand : Asm → List Asm
  | .nop => [.nop]
  | .packc r g b => [.packc r g b]
  | .setw w => [.setw w]
  | .seth h => [.seth h]
  | .start bpp => [.start bpp]
  | .push idx => [.push idx]
  | .word v => [.word v]
  | .palette entries => paletteExpansion entries
  | .frame bpp w h pixels => frameExpansion bpp w h pixels
  | .convert bpp w h entries pixels => paletteExpansion entries ++ frameExpansion bpp w h pixels

/-- The "word" column of R49. A pseudo-instruction has no word of its own. -/
def Asm.wordNat : Asm → Option Nat
  | .nop => some 0x00000000
  | .packc r g b => some (0x01000000 + r * 65536 + g * 256 + b)
  | .setw w => some (0x02000000 + w)
  | .seth h => some (0x03000000 + h)
  | .start bpp => some (0x04000000 + bpp)
  | .push idx => some (0x05000000 + idx)
  | .word v => some v
  | .palette _ => none
  | .frame _ _ _ _ => none
  | .convert _ _ _ _ _ => none

/-- The words of a statement, or nothing where an operand is out of its range (R49, R50). -/
def assemble (a : Asm) : Option (List Word) :=
  if a.wellFormed then some (a.expand.filterMap fun c => c.wordNat.map (BitVec.ofNat 32)) else none

/-! ### The text of a line (R49)

Blanks and tabs separate (notes/assumptions/8.md); `;` starts a comment; numbers are decimal or `0x` hexadecimal. -/

/-- A token of an assembler line. -/
inductive Tok where
  | name (cs : List Char)
  | num (n : Nat)
  | comma
  | lparen
  | rparen
  | lbrack
  | rbrack
deriving DecidableEq, Repr

/-- The value of a digit below `base`. -/
def digitValue (base : Nat) (c : Char) : Option Nat :=
  let n := c.toNat
  let v := if 48 ≤ n ∧ n ≤ 57 then some (n - 48)
    else if 65 ≤ n ∧ n ≤ 70 then some (n - 55)
    else if 97 ≤ n ∧ n ≤ 102 then some (n - 87)
    else none
  v.bind fun d => if d < base then some d else none

/-- The digits of a number, most significant first, after the value `acc`. -/
def digitsValue (base acc : Nat) : List Char → Option Nat
  | [] => some acc
  | c :: cs => (digitValue base c).bind fun d => digitsValue base (acc * base + d) cs

/-- A number: `0x` and at least one hexadecimal digit, or decimal digits. -/
def numberValue : List Char → Option Nat
  | '0' :: 'x' :: c :: cs => digitsValue 16 0 (c :: cs)
  | [] => none
  | c :: cs => digitsValue 10 0 (c :: cs)

/-- A run of characters is a number when it begins with a digit, else a name. -/
def wordTok (cs : List Char) : Option Tok :=
  match cs with
  | [] => none
  | c :: _ => if (digitValue 10 c).isSome then (numberValue cs).map .num else some (.name cs)

/-- The punctuation of R49 and R50. -/
def punctuation (c : Char) : Option Tok :=
  if c = ',' then some .comma
  else if c = '(' then some .lparen
  else if c = ')' then some .rparen
  else if c = '[' then some .lbrack
  else if c = ']' then some .rbrack
  else none

/-- Put the token of the run `run` (held in reverse) before the tokens that follow. -/
def flushRun (run : List Char) (toks : List Tok) : Option (List Tok) :=
  match run with
  | [] => some toks
  | c :: cs => (wordTok (c :: cs).reverse).map (· :: toks)

/-- The tokens of a line; `run` is the run of characters being read, in reverse. -/
def tokens (run : List Char) : List Char → Option (List Tok)
  | [] => flushRun run []
  | c :: cs =>
    if c = ';' then flushRun run []
    else if c = ' ' ∨ c = '\t' then (tokens [] cs).bind (flushRun run)
    else match punctuation c with
      | some p => (tokens [] cs).bind fun ts => flushRun run (p :: ts)
      | none => tokens (c :: run) cs

/-- `p0, p1, ... ]` to the end of the line. -/
def parsePixels : List Tok → Option (List Nat)
  | [.num n, .rbrack] => some [n]
  | .num n :: .comma :: ts => (parsePixels ts).map (n :: ·)
  | _ => none

/-- `[p0, p1, ...]` to the end of the line; `[]` is the list of a frame with W*H = 0 (R50; notes/assumptions/8.md). -/
def parsePixelList : List Tok → Option (List Nat)
  | [.lbrack, .rbrack] => some []
  | .lbrack :: ts => parsePixels ts
  | _ => none

/-- `(r0,g0,b0), (r1,g1,b1), ...`, then, in CONVERT, the pixel list after a last comma. CONVERT with no triple at all, the pixel
list directly after H, reads as an empty palette: R50 shows at least entry 0 and does not speak of none (DESIGN CHOICE,
notes/assumptions/8.md). PALETTE with no triple is no statement. -/
def parseTriples : List Tok → Option (List (Nat × Nat × Nat) × List Tok)
  | [.lparen, .num r, .comma, .num g, .comma, .num b, .rparen] => some ([(r, g, b)], [])
  | .lparen :: .num r :: .comma :: .num g :: .comma :: .num b :: .rparen :: .comma :: ts =>
    (parseTriples ts).map fun x => ((r, g, b) :: x.1, x.2)
  | .lbrack :: ts => some ([], .lbrack :: ts)
  | _ => none

/-- The statement that a line's name and operands form (R49, R50). -/
def parseStatement (m : List Char) (ts : List Tok) : Option Asm :=
  if m = ['N', 'O', 'P'] then (match ts with | [] => some .nop | _ => none)
  else if m = ['P', 'A', 'C', 'K', 'C'] then
    (match ts with | [.num r, .comma, .num g, .comma, .num b] => some (.packc r g b) | _ => none)
  else if m = ['S', 'E', 'T', 'W'] then (match ts with | [.num w] => some (.setw w) | _ => none)
  else if m = ['S', 'E', 'T', 'H'] then (match ts with | [.num h] => some (.seth h) | _ => none)
  else if m = ['S', 'T', 'A', 'R', 'T'] then (match ts with | [.num b] => some (.start b) | _ => none)
  else if m = ['P', 'U', 'S', 'H'] then (match ts with | [.num i] => some (.push i) | _ => none)
  else if m = ['.', 'w', 'o', 'r', 'd'] then (match ts with | [.num v] => some (.word v) | _ => none)
  else if m = ['P', 'A', 'L', 'E', 'T', 'T', 'E'] then
    (parseTriples ts).bind fun x => match x.2 with | [] => some (.palette x.1) | _ => none
  else if m = ['F', 'R', 'A', 'M', 'E'] then
    (match ts with
     | .num b :: .comma :: .num w :: .comma :: .num h :: .comma :: ps => (parsePixelList ps).map (.frame b w h)
     | _ => none)
  else if m = ['C', 'O', 'N', 'V', 'E', 'R', 'T'] then
    (match ts with
     | .num b :: .comma :: .num w :: .comma :: .num h :: .comma :: ps =>
       (parseTriples ps).bind fun x => (parsePixelList x.2).map (.convert b w h x.1)
     | _ => none)
  else none

/-- The statement of a line: nothing for a blank or comment line, `none` for a line that is no statement of R49 or R50. -/
def parseLine (line : List Char) : Option (List Asm) :=
  (tokens [] line).bind fun ts =>
    match ts with
    | [] => some []
    | .name m :: rest => (parseStatement m rest).map ([·])
    | _ => none

/-- The words of a program, one statement a line (R49). -/
def assembleText : List (List Char) → Option (List Word)
  | [] => some []
  | line :: lines =>
    (parseLine line).bind fun as => (as.mapM assemble).bind fun ws => (assembleText lines).map (ws.flatten ++ ·)

end Sys2Proof
end

