-- ==== Sys2Proof/Machine/State.lean ====
section
/-! DEFINITION. The state of the block (spec/10_state.md R9), the reset state (spec/70_reset_and_hazards.md R79), and the
reasons a step can stop. -/

namespace Sys2Proof.Machine

/-- What the host does to the block, between commands (spec/20_memory.md R26 to R28; spec/70_reset_and_hazards.md R80). -/
inductive HostEvent where
  /-- A command word is accepted on the CMD port (R26). -/
  | command (cmd : Word)
  /-- `rst` is sampled high; no command is accepted at that edge (R80). -/
  | reset
  /-- `pal_ready` is high at an edge: the PAL port delivers a waiting palette word (R27). -/
  | takePal
  /-- `byte_ready` is high at an edge: the BYTE port delivers a waiting byte (R28). -/
  | takeByte
deriving DecidableEq, Repr

/-- The four error conditions; the code of each is its bit in ERR (spec/10_state.md R20, spec/60_exceptions.md R67). -/
inductive ErrFlag where
  /-- Bit 0: START with a bpp outside 1 to 8 (R68). -/
  | param
  /-- Bit 1: PUSH with an index not below 2^BPP (R69). -/
  | idx
  /-- Bit 2: a command at the wrong point of the frame protocol (R70). -/
  | seq
  /-- Bit 3: an illegal word (R71). -/
  | ill
deriving DecidableEq, Repr

/-- The reasons the machine stops with a fault: none. An error sets a flag and "never makes the block stuck"
(spec/60_exceptions.md R73), so nobody raises a fault (safe; notes/assumptions/7.md). -/
inductive Fault : Type
deriving DecidableEq, Repr

/-- The reasons an instruction has no meaning. -/
inductive Refusal where
  /-- Only `exec`'s arm of a command not yet modelled would answer this (safe). Every command is modelled, so nobody raises it. -/
  | notModelled (mnemonic : String)
deriving DecidableEq, Repr

/-- The state of R9, each item under the spec's name in lower case, then the three fields of the model's own that stand for the
ports' environment (notes/assumptions/1.md, notes/assumptions/3.md). -/
structure State where
  /-- WIDTH (R10). -/
  width : Dim
  /-- HEIGHT (R11). -/
  height : Dim
  /-- BPP (R12). -/
  bpp : BitVec 4
  /-- XPOS (R13). -/
  xpos : Dim
  /-- YPOS (R14). -/
  ypos : Dim
  /-- ACC: the waiting bits, right-aligned, the earliest in bit NACC-1 (R15). -/
  acc : BitVec 8
  /-- NACC: how many bits wait in ACC (R16). -/
  nacc : BitVec 3
  /-- ACTIVE (R17). -/
  active : Bool
  /-- DONE (R18). -/
  done : Bool
  /-- ERR: PARAM, IDX, SEQ, ILL in bits 0 to 3 (R20). -/
  err : BitVec 4
  /-- PALQ: every palette word emitted since reset, in emission order (R22). -/
  palq : List PalWord
  /-- BYTEQ: every byte emitted since reset, in emission order (R23). -/
  byteq : List Byte
  /-- How many words of PALQ the PAL port has delivered (R27). The model's own. -/
  palTaken : Nat
  /-- How many bytes of BYTEQ the BYTE port has delivered (R28). The model's own. -/
  byteTaken : Nat
  /-- What the host does next, the next event first. The model's own. -/
  input : List HostEvent
deriving DecidableEq, Repr

/-- The state after reset: every item at the "reset" column of R9, as R79 lists it; nothing delivered and no event waiting. -/
def State.reset : State where
  width := 0
  height := 0
  bpp := 0
  xpos := 0
  ypos := 0
  acc := 0
  nacc := 0
  active := false
  done := false
  err := 0
  palq := []
  byteq := []
  palTaken := 0
  byteTaken := 0
  input := []

/-- What a command's execution, and a step, answers. -/
abbrev Result := Host.Outcome State Fault Refusal

end Sys2Proof.Machine
end

