-- ==== Sys2Proof/Machine/Operands.lean ====
section
/-! DEFINITION. The tests and masks on operand values made at execution (spec/30_encoding.md R44, spec/41_bit_packer.md R58,
R59, R63). The operand fields themselves are read in Sys2Proof/Decode.lean. -/

namespace Sys2Proof.Machine

/-- START's range test: `bpp < 1 or bpp > 8` refuses (R58, R68). -/
def bppInRange (bpp : BppField) : Bool :=
  decide (Config.minBpp ≤ bpp.toNat) && decide (bpp.toNat ≤ Config.maxBpp)

/-- `bpp[3:0]`, what an accepted START writes to BPP (R58). -/
def bppRegister (bpp : BppField) : BitVec 4 := bpp.extractLsb' 0 4

/-- PUSH's range test: `(idx >> b) != 0` (R59, R69). -/
def idxOutOfRange (b : Nat) (idx : Index) : Bool := idx.toNat >>> b != 0

/-- `idx & ((1 << b) - 1)`: the b low bits of the index (R59). -/
def maskIdx (b : Nat) (idx : Index) : Nat := idx.toNat &&& ((1 <<< b) - 1)

end Sys2Proof.Machine
end

