-- ==== Sys2Proof/Machine/Flags.lean ====
section
/-! DEFINITION. The flags: ERR and its bits (spec/10_state.md R20), the status word SR (R21), the interrupt lines
(spec/60_exceptions.md R76) and the status pins (spec/20_memory.md R29). No arithmetic result sets a flag (R17). -/

namespace Sys2Proof.Machine

/-- The bit of ERR that a condition sets, as a mask (R20, R67). -/
def ErrFlag.mask : ErrFlag → BitVec 4
  | .param => 0x1#4
  | .idx => 0x2#4
  | .seq => 0x4#4
  | .ill => 0x8#4

/-- ERR.PARAM. -/
def State.errParam (s : State) : Bool := s.err.getLsbD 0

/-- ERR.IDX. -/
def State.errIdx (s : State) : Bool := s.err.getLsbD 1

/-- ERR.SEQ. -/
def State.errSeq (s : State) : Bool := s.err.getLsbD 2

/-- ERR.ILL. -/
def State.errIll (s : State) : Bool := s.err.getLsbD 3

/-- SR: the read-only 8-bit view of the flags, SR[0] = ACTIVE, SR[1] = DONE, SR[3:2] = 0, SR[7:4] = ERR,
that is `ACTIVE | DONE << 1 | ERR << 4` (R21). -/
def State.sr (s : State) : BitVec 8 :=
  (BitVec.ofBool s.active).setWidth 8 ||| ((BitVec.ofBool s.done).setWidth 8 <<< 1) ||| (s.err.setWidth 8 <<< 4)

/-- `irq_done` = DONE (R76). -/
def State.irqDone (s : State) : Bool := s.done

/-- `irq_err` is 1 exactly when ERR is not 0 (R76). -/
def State.irqErr (s : State) : Bool := s.err != 0#4

/-- The status pins that the host may sample (R29). ACC has no pin (R21). -/
structure StatusPins where
  sr : BitVec 8
  width : BitVec 16
  height : BitVec 16
  bpp : BitVec 4
  xpos : BitVec 16
  ypos : BitVec 16
  nacc : BitVec 3
  irqDone : Bool
  irqErr : Bool
deriving DecidableEq, Repr

/-- What the status pins show: the registers as they stand after the last accepted command (R29, R88). -/
def State.pins (s : State) : StatusPins where
  sr := s.sr
  width := s.width
  height := s.height
  bpp := s.bpp
  xpos := s.xpos
  ypos := s.ypos
  nacc := s.nacc
  irqDone := s.irqDone
  irqErr := s.irqErr

end Sys2Proof.Machine
end

