-- ==== Sys2Proof/Machine/Ops.lean ====
section
/-! DEFINITION. The pseudocode primitives of spec/00_scope.md section 9 over the state: emitting on the two ports, setting an
error flag, and `raise`, which is the whole of taking an exception in this block (spec/60_exceptions.md R73). There is no return
from one (R75). -/

namespace Sys2Proof.Machine

/-- `EmitPal(v)`: append one word to PALQ (R22). -/
def State.emitPal (v : PalWord) (s : State) : State := { s with palq := s.palq ++ [v] }

/-- `EmitByte` for each byte of `bs` in order: append to BYTEQ (R23). -/
def State.emitBytes (bs : List Byte) (s : State) : State := { s with byteq := s.byteq ++ bs }

/-- `ERR.X <- 1`: the flag becomes 1, or stays 1; no other flag changes (R20, R73). -/
def State.setErr (x : ErrFlag) (s : State) : State := { s with err := s.err ||| x.mask }

/-- `raise X`: set the flag and end the command with no other effect. Nothing is saved, no mode changes, control goes nowhere,
and the next command executes normally (R73). -/
def raise (x : ErrFlag) (s : State) : Result := .next (s.setErr x)

end Sys2Proof.Machine
end

