-- ==== Sys2Proof/Machine/BitPacker.lean ====
section
/-! DEFINITION. The Bit Packer (spec/41_bit_packer.md R56 to R59). Temporaries are natural numbers, as the spec's arithmetic is
(R63); a value is narrowed only where it is written to a register. In states that no run reaches (BPP above 8, WIDTH 0 during a
frame) the narrowing truncates (notes/assumptions/6.md). -/

namespace Sys2Proof.Machine

/-- SETW w (R56). -/
def execSetw (w : Dim) (s : State) : Result :=
  if s.active then raise .seq s else .next { s with width := w }

/-- SETH h (R57). -/
def execSeth (h : Dim) (s : State) : Result :=
  if s.active then raise .seq s else .next { s with height := h }

/-- What every accepted START writes: BPP latched, position and accumulator cleared (R58). -/
def State.freshFrame (bpp : BppField) (s : State) : State :=
  { s with bpp := bppRegister bpp, xpos := 0, ypos := 0, acc := 0, nacc := 0 }

/-- WIDTH = 0 or HEIGHT = 0: the frame has no pixel (R58). -/
def State.frameIsEmpty (s : State) : Bool := s.width == 0 || s.height == 0

/-- START bpp: the sequence test comes before the range test (R58, R74). -/
def execStart (bpp : BppField) (s : State) : Result :=
  if s.active then raise .seq s
  else if !bppInRange bpp then raise .param s
  else if s.frameIsEmpty then .next { s.freshFrame bpp with active := false, done := true }
  else .next { s.freshFrame bpp with active := true, done := false }

/-- What the datapath holds after a pixel's bits went in: the full byte emitted, if any, the waiting bits and their number. -/
structure Shifted where
  bytes : List Byte
  t : Nat
  n : Nat
deriving DecidableEq, Repr

/-- PUSH's datapath: put the `b` bits of `v` behind the waiting bits; when 8 or more wait, the 8 earliest leave as a byte,
earliest in bit 7 (R59). -/
def shiftIn (acc nacc b v : Nat) : Shifted :=
  let t := (acc <<< b) ||| v
  let n := nacc + b
  if 8 ≤ n then
    { bytes := [BitVec.ofNat 8 ((t >>> (n - 8)) &&& 0xFF)], t := t &&& ((1 <<< (n - 8)) - 1), n := n - 8 }
  else
    { bytes := [], t := t, n := n }

/-- The pad byte of a frame's end: waiting bits high, zeros low; none when no bit waits (R59). -/
def padBytes (t n : Nat) : List Byte :=
  if n = 0 then [] else [BitVec.ofNat 8 ((t <<< (8 - n)) &&& 0xFF)]

/-- XPOS is at the last column: `XPOS == WIDTH - 1` (R13, R59). -/
def State.atRowEnd (s : State) : Bool := s.xpos == s.width - 1

/-- `nx`: the column after this pixel (R13, R59). -/
def State.nextX (s : State) : Dim := if s.atRowEnd then 0 else s.xpos + 1

/-- `ny`: the row after this pixel (R14, R59). -/
def State.nextY (s : State) : Dim := if s.atRowEnd then s.ypos + 1 else s.ypos

/-- The tail of PUSH: emit what the datapath released, advance the position and, after the frame's last pixel, emit the pad and
complete the frame (R59). -/
def State.advance (d : Shifted) (s : State) : State :=
  if s.nextY = s.height then
    { s.emitBytes (d.bytes ++ padBytes d.t d.n) with
      xpos := s.nextX, ypos := s.nextY, acc := 0, nacc := 0, active := false, done := true }
  else
    { s.emitBytes d.bytes with
      xpos := s.nextX, ypos := s.nextY, acc := BitVec.ofNat 8 d.t, nacc := BitVec.ofNat 3 d.n }

/-- An index out of range is flagged, and the command goes on (R59, R69). -/
def State.flagIdx (idx : Index) (s : State) : State :=
  if idxOutOfRange s.bpp.toNat idx then s.setErr .idx else s

/-- PUSH idx: supply the index of the pixel at column XPOS of row YPOS (R59). -/
def execPush (idx : Index) (s : State) : Result :=
  if s.active then
    .next ((s.flagIdx idx).advance (shiftIn s.acc.toNat s.nacc.toNat s.bpp.toNat (maskIdx s.bpp.toNat idx)))
  else raise .seq s

end Sys2Proof.Machine
end

