-- ==== Sys2Proof/Machine/ColorPacker.lean ====
section
/-! DEFINITION. The Color Packer (spec/40_color_packer.md). -/

namespace Sys2Proof.Machine

/-- `w565`, the pre-swap word: `((r & 0xF8) << 8) | ((g & 0xFC) << 3) | (b >> 3)` (R52). -/
def preSwapWord (r g b : Channel) : PalWord :=
  BitVec.ofNat 16 (((r.toNat &&& 0xF8) <<< 8) ||| ((g.toNat &&& 0xFC) <<< 3) ||| (b.toNat >>> 3))

/-- Exchange of bits 15:8 and 7:0: `((w & 0x00FF) << 8) | (w >> 8)` (R34, R52). -/
def swapBytes (w : PalWord) : PalWord :=
  BitVec.ofNat 16 (((w.toNat &&& 0x00FF) <<< 8) ||| (w.toNat >>> 8))

/-- The word a colour packs to; the swap is part of packing (R34, R52). -/
def packColor (r g b : Channel) : PalWord := swapBytes (preSwapWord r g b)

/-- PACKC r, g, b: append the packed colour to PALQ; nothing else is read or written (R52, R55). -/
def execPackc (r g b : Channel) (s : State) : Result := .next (s.emitPal (packColor r g b))

end Sys2Proof.Machine
end

