-- ==== Sys2Proof/Machine/Housekeeping.lean ====
section
/-! DEFINITION. NOP and the behaviour of an illegal word (spec/42_housekeeping.md R64, R65). -/

namespace Sys2Proof.Machine

/-- NOP: nothing is read, written or emitted, in every state (R64). -/
def execNop (s : State) : Result := .next s

/-- ILLEGAL(cmd): `raise ILL`; the word is consumed and its operand field is never interpreted (R65, R71). -/
def execIllegal (s : State) : Result := raise .ill s

end Sys2Proof.Machine
end

