-- ==== Sys2Proof/Machine/Dispatch.lean ====
section
/-! DEFINITION. The meaning of each command of spec/30_encoding.md R42. -/

namespace Sys2Proof.Machine

def exec (i : Instr) (s : State) : Host.Outcome State Fault Refusal :=
  match i with
  | .nop => Sys2Proof.Machine.execNop s
  | .packc r g b => Sys2Proof.Machine.execPackc r g b s
  | .setw w => Sys2Proof.Machine.execSetw w s
  | .seth h => Sys2Proof.Machine.execSeth h s
  | .start bpp => Sys2Proof.Machine.execStart bpp s
  | .push idx => Sys2Proof.Machine.execPush idx s

end Sys2Proof.Machine
end

