-- ==== Sys2Proof/Machine/Ports.lean ====
section
/-! DEFINITION. The ports: accepting and executing a command word, delivering outputs, reset (spec/20_memory.md R26 to R28, R36,
R37; spec/70_reset_and_hazards.md R80, R87). -/

namespace Sys2Proof.Machine

/-- Execute one accepted command word: a legal word has its command's meaning, an illegal one sets ILL (R26, R45, R65). -/
def executeWord (cmd : Word) (s : State) : Result :=
  match decode cmd with
  | .legal i => exec i s
  | .illegal _ _ => execIllegal s

/-- A sequence of commands is the left fold of the step over it (R36). -/
def executeWords : List Word → State → Result
  | [], s => .next s
  | cmd :: cmds, s =>
    match executeWord cmd s with
    | .next s' => executeWords cmds s'
    | .fault r => .fault r
    | .refused r => .refused r

/-- `pal_valid`: a palette word waits (R27). -/
def State.palValid (s : State) : Bool := decide (s.palTaken < s.palq.length)

/-- `pal_data` while `pal_valid` is 1: the oldest word not yet delivered (R27, R37). -/
def State.palData (s : State) : Option PalWord := s.palq[s.palTaken]?

/-- The words delivered at the PAL port since reset (R27). -/
def State.palDelivered (s : State) : List PalWord := s.palq.take s.palTaken

/-- `byte_valid`: a byte waits (R28). -/
def State.byteValid (s : State) : Bool := decide (s.byteTaken < s.byteq.length)

/-- `byte_data` while `byte_valid` is 1: the oldest byte not yet delivered (R28, R37). -/
def State.byteData (s : State) : Option Byte := s.byteq[s.byteTaken]?

/-- The bytes delivered at the BYTE port since reset (R28). -/
def State.byteDelivered (s : State) : List Byte := s.byteq.take s.byteTaken

/-- An edge with `pal_ready` high: one word is delivered when one waits, otherwise no transfer happens (R27). -/
def takePalWord (s : State) : State :=
  if s.palValid then { s with palTaken := s.palTaken + 1 } else s

/-- An edge with `byte_ready` high: one byte is delivered when one waits, otherwise no transfer happens (R28). -/
def takeByte (s : State) : State :=
  if s.byteValid then { s with byteTaken := s.byteTaken + 1 } else s

/-- An edge with `rst` high: the block takes the reset state whatever it was doing; undelivered outputs are discarded and the
logs restart empty; what the host does afterwards is unchanged (R80, R87; notes/assumptions/5.md). -/
def applyReset (s : State) : State := { State.reset with input := s.input }

/-- One event of the host, on a state whose `input` no longer holds it. -/
def handleEvent (e : HostEvent) (s : State) : Result :=
  match e with
  | .command cmd => executeWord cmd s
  | .reset => .next (applyReset s)
  | .takePal => .next (takePalWord s)
  | .takeByte => .next (takeByte s)

/-- Consume the host's next event; with none, the block waits unchanged (R24, R26; notes/assumptions/2.md). -/
def stepInput (s : State) : Result :=
  match s.input with
  | [] => .next s
  | e :: rest => handleEvent e { s with input := rest }

/-- The command word of the opcode table presented as the host's next event (notes/assumptions/1.md). -/
def presentWord (s : State) (nbits w : Nat) : State :=
  { s with input := .command (tableWord nbits w) :: s.input }

end Sys2Proof.Machine
end

