-- ==== Sys2Proof/Machine/Step.lean ====
section
/-! DEFINITION. One step of the machine: the host's next event (Machine/Ports.lean). The block fetches nothing
(spec/10_state.md R24); the host presents the commands. -/

namespace Sys2Proof.Machine

/-- One step. -/
def step (s : State) : Host.Outcome State Fault Refusal := stepInput s

/-- `s` with the given word presented as the next command on the CMD port, before whatever the host does next. -/
def State.withFetchWord (s : State) (nbits w : Nat) : State := presentWord s nbits w

end Sys2Proof.Machine
end

