-- ==== Sys2Proof/Machine/Frame.lean ====
section
/-! DEFINITION. What a whole frame produces (spec/41_bit_packer.md R60), independent of the commands: the Bitstream, PackFrame and
its closed form; the reading back of indices (spec/95_test_vectors.md S9); and the bit-serial form of PUSH (R62). -/

namespace Sys2Proof.Machine

/-- NBYTES = ceil(BITS / 8) (R60). -/
def byteCount (bits : Nat) : Nat := (bits + 7) / 8

/-- `s_j` of R60: bit `b - 1 - (j mod b)` of pixel `j div b` below `bits`, and the zero pad from there on. -/
def streamBit (b bits : Nat) (p : List Index) (j : Nat) : Bool :=
  if j < bits then (p.getD (j / b) 0).getLsbD (b - 1 - j % b) else false

/-- `byte_q` of R60. -/
def frameByte (b bits : Nat) (p : List Index) (q : Nat) : Byte :=
  let s := fun k => (streamBit b bits p (8 * q + k)).toNat
  BitVec.ofNat 8 (s 0 * 128 + s 1 * 64 + s 2 * 32 + s 3 * 16 + s 4 * 8 + s 5 * 4 + s 6 * 2 + s 7)

/-- PackFrame(b, W, H, p) of R60, for the indices `p` in row-major order. -/
def packFrame (b w h : Nat) (p : List Index) : List Byte :=
  (List.range (byteCount (w * h * b))).map (frameByte b (w * h * b) p)

/-- V of R60's closed form: all indices concatenated into one number, the first pixel highest. -/
def concatIndices (b : Nat) (p : List Index) : Nat :=
  p.foldl (fun v x => v * 2 ^ b + x.toNat) 0

/-- The `n` bytes of `v`, most significant first. -/
def bigEndianBytes (n v : Nat) : List Byte :=
  (List.range n).map fun q => BitVec.ofNat 8 (v / 2 ^ (8 * (n - 1 - q)))

/-- The closed form of R60: the big-endian byte string of V * 2^(8*NBYTES - BITS). -/
def packFrameClosed (b w h : Nat) (p : List Index) : List Byte :=
  bigEndianBytes (byteCount (w * h * b)) (concatIndices b p * 2 ^ (8 * byteCount (w * h * b) - w * h * b))

/-- A byte string read as one big-endian number (S9). -/
def bigEndianValue (bs : List Byte) : Nat := bs.foldl (fun v x => v * 256 + x.toNat) 0

/-- `p_k = (V >> (8*NBYTES - b*(k+1))) mod 2^b` for the first `n` pixels, V the bytes read as one number (S9). -/
def unpackFrame (b n : Nat) (bs : List Byte) : List Index :=
  (List.range n).map fun k => BitVec.ofNat 8 ((bigEndianValue bs >>> (8 * bs.length - b * (k + 1))) % 2 ^ b)

/-- The commands of one frame: SETW, SETH, START, then one PUSH per pixel (spec/30_encoding.md R50). -/
def frameCommands (b : BppField) (w h : Dim) (p : List Index) : List Instr :=
  .setw w :: .seth h :: .start b :: p.map .push

/-! ## The bit-serial form of PUSH (R62) -/

/-- The bits of an index in stream order, `v[b-1]` first (R32). -/
def indexBits (b v : Nat) : List Bool := (List.range b).map fun m => v.testBit (b - 1 - m)

/-- R62's loop: ACC as a shift register that a full byte leaves from; `nacc` counts 0 to 8. -/
def shiftSerial (acc : Byte) (nacc : Nat) : List Bool → Shifted
  | [] => { bytes := [], t := acc.toNat, n := nacc }
  | v :: vs =>
    let acc' : Byte := BitVec.ofNat 8 ((acc.toNat <<< 1) ||| v.toNat)
    if nacc + 1 = 8 then
      let d := shiftSerial 0 0 vs
      { d with bytes := acc' :: d.bytes }
    else shiftSerial acc' (nacc + 1) vs

/-- PUSH in its bit-serial form: R62's loop, then "the position update and the end-of-frame pad exactly as in rule R59". -/
def execPushSerial (idx : Index) (s : State) : Result :=
  if s.active then
    .next ((s.flagIdx idx).advance
      (shiftSerial s.acc s.nacc.toNat (indexBits s.bpp.toNat (maskIdx s.bpp.toNat idx))))
  else raise .seq s

end Sys2Proof.Machine
end

