-- ==== Sys2Proof/Safety.lean ====
section
/-! DEFINITION. What holds of every state a run reaches (spec/10_state.md R19), and what a good run is
(spec/70_reset_and_hazards.md R92). -/

namespace Sys2Proof.Machine

/-- The invariants of R19, the value ranges of R9, R12 and R13, and that no port delivers more than was emitted (spec/20_memory.md
R27, R28). -/
structure State.Inv (s : State) : Prop where
  /-- R19 (e). -/
  bpp_le : s.bpp.toNat ≤ 8
  /-- R19 (c). -/
  acc_lt : s.acc.toNat < 2 ^ s.nacc.toNat
  /-- R19 (d). -/
  idle_drained : s.active = false → s.nacc = 0 ∧ s.acc = 0
  /-- XPOS is 0 outside a frame, so it stays in the range of R9 when SETW changes WIDTH (R13, R14). -/
  idle_column : s.active = false → s.xpos = 0
  /-- R19 (a). -/
  active_geometry : s.active = true →
    1 ≤ s.bpp.toNat ∧ 1 ≤ s.width.toNat ∧ 1 ≤ s.height.toNat ∧
      s.xpos.toNat < s.width.toNat ∧ s.ypos.toNat < s.height.toNat ∧ s.done = false
  /-- R19 (b). -/
  active_phase : s.active = true →
    s.nacc.toNat = ((s.ypos.toNat * s.width.toNat + s.xpos.toNat) * s.bpp.toNat) % 8
  /-- BPP is 0 exactly until the first accepted START, from which on ACTIVE or DONE is 1 (R12, R21). -/
  started : s.bpp ≠ 0 ↔ (s.active = true ∨ s.done = true)
  /-- The delivered palette words are a part of PALQ (R27). -/
  pal_taken : s.palTaken ≤ s.palq.length
  /-- The delivered bytes are a part of BYTEQ (R28). -/
  byte_taken : s.byteTaken ≤ s.byteq.length

/-- No error flag is set: the premise of a claim about outputs (spec/60_exceptions.md R78). -/
def State.errorFree (s : State) : Bool := s.err == 0

/-- A good conversion: ERR = 0, ACTIVE = 0 and DONE = 1 at the end of a run (R92). -/
def State.goodConversion (s : State) : Bool := s.errorFree && !s.active && s.done

/-- The host's palette duty: exactly 2^bpp entries (R82). -/
def paletteDuty (bpp : Nat) (entries : List (Nat × Nat × Nat)) : Bool :=
  decide (entries.length = Config.paletteSize bpp)

/-- The host's frame and data duties: a bpp in 1 to 8, dimensions that fit, one index per cell, each below 2^bpp (R83, R84). -/
def frameDuty (bpp w h : Nat) (pixels : List Nat) : Bool :=
  decide (Config.minBpp ≤ bpp) && decide (bpp ≤ Config.maxBpp) && decide (w < 65536) && decide (h < 65536) &&
    decide (pixels.length = w * h) && pixels.all fun p => decide (p < Config.paletteSize bpp)

end Sys2Proof.Machine
end

