-- ==== Sys2Proof/Certificates/Slice0/Obligations.lean ====
section
/-! DEFINITION. The statements about I2B-PACK for the provers. Each docstring names the rule of spec/ it formalises or rests on.
A statement that gives a command's whole next state is also its frame: every field not named is unchanged. -/

open Sys2Proof Sys2Proof.Machine

/-! ## Encoding -/

/-- R42, R45: decoding an encoded command gives it back, with every operand at every value. -/
def Obligations.DecodeOfEncodeIsTheCommand : Prop :=
  ∀ i : Instr, i.wellFormed = true → decode (encode i) = .legal i

/-- R40, R45, D4 ("ignoring reserved bits would let two words mean the same command"): a legal word is the encoding of the command
it decodes to, so no two words mean the same command. -/
def Obligations.LegalWordIsTheEncodingOfItsCommand : Prop :=
  ∀ (w : Word) (i : Instr), decode w = .legal i → encode i = w

/-- R42: the word `w` is the command of a row, with the operands of the row's pattern, exactly when `w & mask = match`; a word is
illegal exactly when it matches no row. Since `decode w` is one value, no word matches two rows. -/
def Obligations.DecoderFollowsTheOpcodeMap : Prop :=
  ∀ w : Word,
    (w &&& 0xFFFFFFFF#32 = 0x00000000#32 ↔ decode w = .legal .nop) ∧
    (w &&& 0xFF000000#32 = 0x01000000#32 ↔
      decode w = .legal (.packc (w.extractLsb' 16 8) (w.extractLsb' 8 8) (w.extractLsb' 0 8))) ∧
    (w &&& 0xFFFF0000#32 = 0x02000000#32 ↔ decode w = .legal (.setw (w.extractLsb' 0 16))) ∧
    (w &&& 0xFFFF0000#32 = 0x03000000#32 ↔ decode w = .legal (.seth (w.extractLsb' 0 16))) ∧
    (w &&& 0xFFFFFF00#32 = 0x04000000#32 ↔ decode w = .legal (.start (w.extractLsb' 0 8))) ∧
    (w &&& 0xFFFFFF00#32 = 0x05000000#32 ↔ decode w = .legal (.push (w.extractLsb' 0 8))) ∧
    ((∃ why, decode w = .illegal why w) ↔ ∀ row ∈ opcodeTable, w &&& row.mask ≠ row.pattern)

/-- R47: a word is illegal exactly in the cases (a) to (d), and executing it sets ERR.ILL and does nothing else. -/
def Obligations.IllegalWordsAreTheFourCases : Prop :=
  ∀ w : Word,
    let op := w.toNat / 2 ^ 24
    ((∃ why, decode w = .illegal why w) ↔
      6 ≤ op ∨ (op = 0 ∧ w.toNat % 2 ^ 24 ≠ 0) ∨
        ((op = 2 ∨ op = 3) ∧ w.toNat / 2 ^ 16 % 2 ^ 8 ≠ 0) ∨
        ((op = 4 ∨ op = 5) ∧ w.toNat / 2 ^ 8 % 2 ^ 16 ≠ 0)) ∧
    ∀ s : State, (∃ why, decode w = .illegal why w) → executeWord w s = .next { s with err := s.err ||| 0x8#4 }

/-- Section 4 of spec/30_encoding.md, which the spec derives from R42 (R46): how many words decode to each command, and how many are illegal. -/
def Obligations.WordCountsOfTheDecoder : Prop :=
  Set.ncard { w : Word | decode w = .legal .nop } = 1 ∧
  Set.ncard { w : Word | ∃ r g b, decode w = .legal (.packc r g b) } = 16777216 ∧
  Set.ncard { w : Word | ∃ v, decode w = .legal (.setw v) } = 65536 ∧
  Set.ncard { w : Word | ∃ v, decode w = .legal (.seth v) } = 65536 ∧
  Set.ncard { w : Word | ∃ v, decode w = .legal (.start v) } = 256 ∧
  Set.ncard { w : Word | ∃ v, decode w = .legal (.push v) } = 256 ∧
  Set.ncard { w : Word | ∃ why, decode w = .illegal why w } = 4278058495

/-- Section 6 of spec/30_encoding.md, which the spec derives from R42 and R47 (R51): the one-line examples of the encoding. -/
def Obligations.EncodingExamplesOfTheSpec : Prop :=
  encode (.packc 248 0 0) = 0x01F80000#32 ∧ decode 0x01F80000#32 = .legal (.packc 248 0 0) ∧
  encode (.setw 4) = 0x02000004#32 ∧ decode 0x02000004#32 = .legal (.setw 4) ∧
  encode (.seth 1) = 0x03000001#32 ∧ decode 0x03000001#32 = .legal (.seth 1) ∧
  encode (.start 4) = 0x04000004#32 ∧ decode 0x04000004#32 = .legal (.start 4) ∧
  encode (.push 10) = 0x0500000A#32 ∧ decode 0x0500000A#32 = .legal (.push 10) ∧
  decode 0x05000100#32 = .illegal .reservedByteBits 0x05000100#32 ∧
  decode 0x06000000#32 = .illegal .reservedOpcode 0x06000000#32 ∧
  decode 0x00000001#32 = .illegal .nonzeroNop 0x00000001#32

/-- R49 with R40: the assembler gives each command in range the word that encodes it. That it answers no word for an operand out
of range is the model's reading of R49's "operand ranges the assembler accepts" (log entry 8, DEDUCED). -/
def Obligations.AssemblerWordsAreTheEncodings : Prop :=
  assemble .nop = some [encode .nop] ∧
  (∀ r g b : Nat, assemble (.packc r g b) =
    if r ≤ 255 ∧ g ≤ 255 ∧ b ≤ 255 then
      some [encode (.packc (BitVec.ofNat 8 r) (BitVec.ofNat 8 g) (BitVec.ofNat 8 b))] else none) ∧
  (∀ w : Nat, assemble (.setw w) = if w ≤ 65535 then some [encode (.setw (BitVec.ofNat 16 w))] else none) ∧
  (∀ h : Nat, assemble (.seth h) = if h ≤ 65535 then some [encode (.seth (BitVec.ofNat 16 h))] else none) ∧
  (∀ b : Nat, assemble (.start b) = if b ≤ 255 then some [encode (.start (BitVec.ofNat 8 b))] else none) ∧
  (∀ p : Nat, assemble (.push p) = if p ≤ 255 then some [encode (.push (BitVec.ofNat 8 p))] else none) ∧
  (∀ v : Nat, assemble (.word v) = if v ≤ 0xFFFFFFFF then some [BitVec.ofNat 32 v] else none)

/-- R50: PALETTE is one PACKC per entry in order, FRAME is SETW, SETH, START and one PUSH per pixel, CONVERT is PALETTE then
FRAME, and each is nothing more. That an empty palette expands to nothing is the model's choice (log entry 8, DESIGN CHOICE: R50
shows at least entry 0), and so is that a CONVERT is refused where its PALETTE or its FRAME is (log entry 8, DEDUCED). -/
def Obligations.PseudoInstructionsExpand : Prop :=
  (∀ e : List (Channel × Channel × Channel),
    assemble (.palette (e.map fun x => (x.1.toNat, x.2.1.toNat, x.2.2.toNat))) =
      some (e.map fun x => encode (.packc x.1 x.2.1 x.2.2))) ∧
  (∀ (b : BppField) (w h : Dim) (p : List Index), p.length = w.toNat * h.toNat →
    assemble (.frame b.toNat w.toNat h.toNat (p.map BitVec.toNat)) = some ((frameCommands b w h p).map encode)) ∧
  (∀ (b w h : Nat) (e : List (Nat × Nat × Nat)) (p : List Nat),
    assemble (.convert b w h e p) =
      (assemble (.palette e)).bind fun x => (assemble (.frame b w h p)).map fun y => x ++ y)

/-! ## Reset and the views of the state -/

/-- R79: reset puts every item at its reset value, nothing waits at the output ports, the interrupt lines are low, and the block is
ready for a command. -/
def Obligations.ResetLeavesEverythingZero : Prop :=
  State.reset.width = 0 ∧ State.reset.height = 0 ∧ State.reset.bpp = 0 ∧ State.reset.xpos = 0 ∧ State.reset.ypos = 0 ∧
  State.reset.acc = 0 ∧ State.reset.nacc = 0 ∧ State.reset.active = false ∧ State.reset.done = false ∧ State.reset.err = 0 ∧
  State.reset.sr = 0x00#8 ∧ State.reset.irqDone = false ∧ State.reset.irqErr = false ∧
  State.reset.palq = [] ∧ State.reset.byteq = [] ∧ State.reset.palValid = false ∧ State.reset.byteValid = false ∧
  ∀ w : Word, ∃ t, executeWord w State.reset = .next t

/-- R80, R87: at a reset event the block takes the reset state whatever it was doing and accepts no command; undelivered outputs
are gone and the logs restart empty. That the host's later events stay is the model's choice (log entry 5). -/
def Obligations.ResetEventDiscardsEverything : Prop :=
  ∀ (s : State) (rest : List HostEvent), s.input = .reset :: rest → step s = .next { State.reset with input := rest }

/-- R21: `SR = ACTIVE | DONE << 1 | ERR << 4`, bits 3:2 are 0, and the pins show SR and the registers WIDTH, HEIGHT, BPP, XPOS,
YPOS and NACC. -/
def Obligations.StatusWordLayout : Prop :=
  ∀ s : State,
    s.sr.toNat = s.active.toNat ||| (s.done.toNat <<< 1) ||| (s.err.toNat <<< 4) ∧
    s.sr.getLsbD 2 = false ∧ s.sr.getLsbD 3 = false ∧
    s.sr.getLsbD 4 = s.errParam ∧ s.sr.getLsbD 5 = s.errIdx ∧ s.sr.getLsbD 6 = s.errSeq ∧ s.sr.getLsbD 7 = s.errIll ∧
    s.pins.sr = s.sr ∧ s.pins.width = s.width ∧ s.pins.height = s.height ∧ s.pins.bpp = s.bpp ∧
    s.pins.xpos = s.xpos ∧ s.pins.ypos = s.ypos ∧ s.pins.nacc = s.nacc

/-- R21's table: SR[1:0] = 00 means that no START has been accepted since reset, so it does not come back without a reset. -/
def Obligations.IdleStatusRecursOnlyByReset : Prop :=
  ∀ s t : State, step s = .next t → (s.active = true ∨ s.done = true) → t.active = false → t.done = false →
    ∃ rest, s.input = .reset :: rest

/-- R76: `irq_done` is DONE and falls at an accepted START of a non-empty frame or at reset and nowhere else; `irq_err` is 1 exactly when ERR
is not 0 and falls only at reset. -/
def Obligations.InterruptLinesFollowTheFlags : Prop :=
  (∀ s : State, s.irqDone = s.done ∧ (s.irqErr = true ↔ s.err ≠ 0)) ∧
  (∀ s t : State, step s = .next t → s.irqDone = true → t.irqDone = false →
    (∃ rest, s.input = .reset :: rest) ∨
    ∃ w b rest, s.input = .command w :: rest ∧ decode w = .legal (.start b) ∧ s.active = false ∧
      1 ≤ b.toNat ∧ b.toNat ≤ 8 ∧ s.width ≠ 0 ∧ s.height ≠ 0) ∧
  (∀ s t : State, step s = .next t → s.irqErr = true → t.irqErr = false → ∃ rest, s.input = .reset :: rest) ∧
  (∀ (s : State) (b : BppField), s.active = false → 1 ≤ b.toNat → b.toNat ≤ 8 → s.width ≠ 0 → s.height ≠ 0 →
    ∃ t, exec (.start b) s = .next t ∧ t.irqDone = false) ∧
  State.reset.irqDone = false ∧ State.reset.irqErr = false

/-! ## The commands -/

/-- R64: NOP is the all-zero word; in any state S it leaves S. -/
def Obligations.NopLeavesTheState : Prop :=
  decode 0x00000000#32 = .legal .nop ∧ ∀ s : State, exec .nop s = .next s

/-- R52: PACKC appends the byte-swapped RGB565 word to PALQ, in every state, and changes nothing else. The word and the pre-swap
word are the spec's unbounded formulas: they fit 16 bits. -/
def Obligations.PackcAppendsTheSwappedColour : Prop :=
  ∀ (r g b : Channel) (s : State),
    let w565 : Nat := ((r.toNat &&& 0xF8) <<< 8) ||| ((g.toNat &&& 0xFC) <<< 3) ||| (b.toNat >>> 3)
    let out : Nat := ((w565 &&& 0x00FF) <<< 8) ||| (w565 >>> 8)
    decode (BitVec.ofNat 32 (0x01000000 + r.toNat * 65536 + g.toNat * 256 + b.toNat)) = .legal (.packc r g b) ∧
    w565 < 2 ^ 16 ∧ out < 2 ^ 16 ∧
    exec (.packc r g b) s = .next { s with palq := s.palq ++ [BitVec.ofNat 16 out] }

/-- Section 2 of spec/40_color_packer.md, which the spec derives from R52 (R53): the field view of the two words, and that the
function is onto. -/
def Obligations.PackedColourFieldView : Prop :=
  (∀ r g b : Channel,
    (preSwapWord r g b).extractLsb' 11 5 = r.extractLsb' 3 5 ∧
    (preSwapWord r g b).extractLsb' 5 6 = g.extractLsb' 2 6 ∧
    (preSwapWord r g b).extractLsb' 0 5 = b.extractLsb' 3 5 ∧
    (packColor r g b).extractLsb' 13 3 = g.extractLsb' 2 3 ∧
    (packColor r g b).extractLsb' 8 5 = b.extractLsb' 3 5 ∧
    (packColor r g b).extractLsb' 3 5 = r.extractLsb' 3 5 ∧
    (packColor r g b).extractLsb' 0 3 = g.extractLsb' 5 3) ∧
  (∀ v : PalWord, ∃ r g b : Channel, packColor r g b = v)

/-- Vectors of spec/95_test_vectors.md section 3: a colour packs as its kept bits do, swapping the packed word back gives the
pre-swap word, and two colours pack alike exactly when their kept bits agree. -/
def Obligations.PackedColourKeepsSixteenBits : Prop :=
  (∀ r g b : Channel, packColor r g b = packColor (r &&& 0xF8#8) (g &&& 0xFC#8) (b &&& 0xF8#8)) ∧
  (∀ r g b : Channel, swapBytes (packColor r g b) = preSwapWord r g b) ∧
  (∀ r g b r' g' b' : Channel, packColor r g b = packColor r' g' b' ↔
    r &&& 0xF8#8 = r' &&& 0xF8#8 ∧ g &&& 0xFC#8 = g' &&& 0xFC#8 ∧ b &&& 0xF8#8 = b' &&& 0xF8#8)

/-- R56: SETW writes WIDTH while no frame is active; during a frame it sets ERR.SEQ and nothing else. -/
def Obligations.SetwWritesWidthOrIsRefused : Prop :=
  ∀ (w : Dim) (s : State),
    decode (BitVec.ofNat 32 (0x02000000 + w.toNat)) = .legal (.setw w) ∧
    (s.active = false → exec (.setw w) s = .next { s with width := w }) ∧
    (s.active = true → exec (.setw w) s = .next { s with err := s.err ||| 0x4#4 })

/-- R57: SETH writes HEIGHT while no frame is active; during a frame it sets ERR.SEQ and nothing else. -/
def Obligations.SethWritesHeightOrIsRefused : Prop :=
  ∀ (h : Dim) (s : State),
    decode (BitVec.ofNat 32 (0x03000000 + h.toNat)) = .legal (.seth h) ∧
    (s.active = false → exec (.seth h) s = .next { s with height := h }) ∧
    (s.active = true → exec (.seth h) s = .next { s with err := s.err ||| 0x4#4 })

/-- R58: START begins a frame, completes an empty one at once, or is refused with SEQ or PARAM; its whole next state in each
case. -/
def Obligations.StartBeginsAFrameOrIsRefused : Prop :=
  ∀ (b : BppField) (s : State),
    decode (BitVec.ofNat 32 (0x04000000 + b.toNat)) = .legal (.start b) ∧
    (s.active = true → exec (.start b) s = .next { s with err := s.err ||| 0x4#4 }) ∧
    (s.active = false → (b.toNat < 1 ∨ 8 < b.toNat) → exec (.start b) s = .next { s with err := s.err ||| 0x1#4 }) ∧
    (s.active = false → 1 ≤ b.toNat → b.toNat ≤ 8 → (s.width = 0 ∨ s.height = 0) →
      exec (.start b) s = .next { s with
        bpp := BitVec.ofNat 4 b.toNat, xpos := 0, ypos := 0, acc := 0, nacc := 0, active := false, done := true }) ∧
    (s.active = false → 1 ≤ b.toNat → b.toNat ≤ 8 → s.width ≠ 0 → s.height ≠ 0 →
      exec (.start b) s = .next { s with
        bpp := BitVec.ofNat 4 b.toNat, xpos := 0, ypos := 0, acc := 0, nacc := 0, active := true, done := false })

/-- R59: PUSH's whole next state, with the datapath in products and remainders: `t` the waiting bits then this pixel's, `n` their
number, at most 15. During a frame the premise is the invariant of R19; outside one PUSH sets ERR.SEQ and nothing else. -/
def Obligations.PushSuppliesAPixel : Prop :=
  ∀ (idx : Index) (s : State),
    decode (BitVec.ofNat 32 (0x05000000 + idx.toNat)) = .legal (.push idx) ∧
    (s.active = false → exec (.push idx) s = .next { s with err := s.err ||| 0x4#4 }) ∧
    (s.active = true → s.Inv →
      let b := s.bpp.toNat
      let t := s.acc.toNat * 2 ^ b + idx.toNat % 2 ^ b
      let n := s.nacc.toNat + b
      let n' := n % 8
      let t' := t % 2 ^ n'
      let full : List Byte := if 8 ≤ n then [BitVec.ofNat 8 (t / 2 ^ (n - 8))] else []
      let rowEnd := s.xpos.toNat + 1 = s.width.toNat
      let last := rowEnd ∧ s.ypos.toNat + 1 = s.height.toNat
      let pad : List Byte := if last ∧ n' ≠ 0 then [BitVec.ofNat 8 (t' * 2 ^ (8 - n'))] else []
      n ≤ 15 ∧ t < 2 ^ n ∧
      exec (.push idx) s = .next { s with
        err := if 2 ^ b ≤ idx.toNat then s.err ||| 0x2#4 else s.err
        byteq := s.byteq ++ full ++ pad
        xpos := if rowEnd then 0 else BitVec.ofNat 16 (s.xpos.toNat + 1)
        ypos := if rowEnd then BitVec.ofNat 16 (s.ypos.toNat + 1) else s.ypos
        acc := if last then 0 else BitVec.ofNat 8 t'
        nacc := if last then 0 else BitVec.ofNat 3 n'
        active := if last then false else true
        done := if last then true else false })

/-- Section 6 of spec/41_bit_packer.md, which the spec derives from R59 (R62): the bit-serial form of PUSH answers exactly what PUSH answers, in every state the invariant admits. -/
def Obligations.PushEqualsItsBitSerialForm : Prop :=
  ∀ (idx : Index) (s : State), s.Inv → exec (.push idx) s = execPushSerial idx s

/-- R59: at 8 bits per pixel every PUSH emits exactly the byte `idx`, sets no flag, and there is never a pad. -/
def Obligations.PushAtEightBitsEmitsItsIndex : Prop :=
  ∀ (idx : Index) (s : State), s.active = true → s.Inv → s.bpp = 8 →
    ∃ t, exec (.push idx) s = .next t ∧ t.byteq = s.byteq ++ [idx] ∧ t.err = s.err ∧ t.acc = 0 ∧ t.nacc = 0

/-- R69: an index with a 1 above bit BPP-1 sets IDX, and the pixel is packed from its low BPP bits: all else is as PUSH of the
masked index, which sets no flag. -/
def Obligations.IndexOutOfRangeIsFlaggedAndMasked : Prop :=
  ∀ (idx : Index) (s : State), s.active = true → 2 ^ s.bpp.toNat ≤ idx.toNat →
    ∃ t, exec (.push (BitVec.ofNat 8 (idx.toNat % 2 ^ s.bpp.toNat))) s = .next t ∧ t.err = s.err ∧
      exec (.push idx) s = .next { t with err := t.err ||| 0x2#4 }

/-! ## Errors -/

/-- R65: the word of an illegal command is accepted, sets ERR.ILL and changes nothing else; the next event follows. -/
def Obligations.IllegalWordSetsOnlyIll : Prop :=
  ∀ (s : State) (w : Word) (why : IllegalReason) (rest : List HostEvent),
    s.input = .command w :: rest → decode w = .illegal why w →
    step s = .next { s with err := s.err ||| 0x8#4, input := rest }

/-- R68: START with a bpp outside 1 to 8 while no frame is active is dropped with PARAM, so BPP and DONE keep their values and a
PUSH that follows raises SEQ; and no other command raises PARAM. -/
def Obligations.ParamIsRaisedByStartAlone : Prop :=
  (∀ (s : State) (b : BppField) (idx : Index), s.active = false → (b.toNat < 1 ∨ 8 < b.toNat) →
    exec (.start b) s = .next { s with err := s.err ||| 0x1#4 } ∧
    exec (.push idx) { s with err := s.err ||| 0x1#4 } = .next { s with err := s.err ||| 0x1#4 ||| 0x4#4 }) ∧
  (∀ (w : Word) (s t : State), executeWord w s = .next t → s.errParam = false → t.errParam = true →
    ∃ b, decode w = .legal (.start b) ∧ s.active = false ∧ (b.toNat < 1 ∨ 8 < b.toNat))

/-- R70: a command at the wrong point of the frame protocol is dropped with SEQ, and every rise of SEQ has one of these causes. -/
def Obligations.SequenceErrorsDropTheCommand : Prop :=
  (∀ s : State, s.active = true → ∀ (v : Dim) (b : BppField),
    exec (.setw v) s = .next { s with err := s.err ||| 0x4#4 } ∧
    exec (.seth v) s = .next { s with err := s.err ||| 0x4#4 } ∧
    exec (.start b) s = .next { s with err := s.err ||| 0x4#4 }) ∧
  (∀ s : State, s.active = false → ∀ idx : Index, exec (.push idx) s = .next { s with err := s.err ||| 0x4#4 }) ∧
  (∀ (w : Word) (s t : State), executeWord w s = .next t → s.errSeq = false → t.errSeq = true →
    (s.active = true ∧ ∃ v b, decode w = .legal (.setw v) ∨ decode w = .legal (.seth v) ∨ decode w = .legal (.start b)) ∨
    (s.active = false ∧ ∃ idx, decode w = .legal (.push idx)))

/-- R74 with R67: what one command adds to ERR: at most one flag, decided by decode, then sequence, then operand value. -/
def Obligations.OneCommandSetsAtMostOneFlag : Prop :=
  ∀ (w : Word) (s : State), ∃ t, executeWord w s = .next t ∧
    t.err = s.err ||| (match decode w with
      | .illegal _ _ => 0x8#4
      | .legal .nop => 0x0#4
      | .legal (.packc _ _ _) => 0x0#4
      | .legal (.setw _) => if s.active then 0x4#4 else 0x0#4
      | .legal (.seth _) => if s.active then 0x4#4 else 0x0#4
      | .legal (.start b) => if s.active then 0x4#4 else if b.toNat < 1 ∨ 8 < b.toNat then 0x1#4 else 0x0#4
      | .legal (.push p) => if s.active = false then 0x4#4 else if 2 ^ s.bpp.toNat ≤ p.toNat then 0x2#4 else 0x0#4)

/-- R73, "never makes the block stuck", but for the back-pressure that R73, R86 and V8 except: in the model every step answers a
next state. It rests on two choices of the model: back-pressure is omitted and a command event is an accepted command (log entry
4, DESIGN CHOICE, unsafe for a claim that the hardware accepts a command), and an error is a flag and never a fault, so Fault has
no constructor (log entry 7, DEDUCED). -/
def Obligations.EveryStepOfTheModelAnswersNext : Prop :=
  ∀ s : State, ∃ t, step s = .next t

/-! ## Whole-machine rules -/

/-- Section 5 of spec/10_state.md, derived there (R19 (a) to (e)), with the ranges of R9, R12, R13, R27 and R28: the invariant
holds at reset. -/
def Obligations.InvariantHoldsAtReset : Prop := State.reset.Inv

/-- Section 5 of spec/10_state.md, derived there (R19 (a) to (e)), with the ranges of R9, R12, R13, R27 and R28: every step keeps
the invariant, from every state that has it. The clauses on BPP outside a frame, on XPOS outside a frame and on the delivered
counts are the model's deductions. -/
def Obligations.EveryStepKeepsTheInvariant : Prop :=
  ∀ s t : State, s.Inv → step s = .next t → t.Inv

/-- R20, R22, R23, R75 (the spec derives it as R19 (f)): until reset a flag once 1 stays 1 and a log only gains items at its end. -/
def Obligations.FlagsAndLogsOnlyGrow : Prop :=
  ∀ s t : State, step s = .next t → (∀ rest, s.input ≠ .reset :: rest) →
    s.err &&& t.err = s.err ∧ s.palq <+: t.palq ∧ s.byteq <+: t.byteq

/-- R9, column "written by": a command not listed for an item never changes it, for every command of the block; what the ports
delivered and what the host does next are written by no command. -/
def Obligations.OnlyTheListedCommandsWrite : Prop :=
  ∀ (i : Instr) (s t : State), exec i s = .next t →
    (t.width = s.width ∨ ∃ w, i = .setw w) ∧
    (t.height = s.height ∨ ∃ h, i = .seth h) ∧
    (t.bpp = s.bpp ∨ ∃ b, i = .start b) ∧
    ((t.xpos = s.xpos ∧ t.ypos = s.ypos ∧ t.acc = s.acc ∧ t.nacc = s.nacc ∧ t.active = s.active ∧ t.done = s.done) ∨
      (∃ b, i = .start b) ∨ ∃ p, i = .push p) ∧
    (t.err = s.err ∨ i ≠ .nop ∧ ∀ r g b, i ≠ .packc r g b) ∧
    (t.palq = s.palq ∨ ∃ r g b, i = .packc r g b) ∧
    (t.byteq = s.byteq ∨ ∃ p, i = .push p) ∧
    t.palTaken = s.palTaken ∧ t.byteTaken = s.byteTaken ∧ t.input = s.input

/-- R85: during a frame no step but a reset changes WIDTH, HEIGHT or BPP. -/
def Obligations.GeometryIsFrozenDuringAFrame : Prop :=
  ∀ s t : State, s.active = true → step s = .next t → (∀ rest, s.input ≠ .reset :: rest) →
    t.width = s.width ∧ t.height = s.height ∧ t.bpp = s.bpp

/-- R17: ACTIVE rises only at an accepted START of a non-empty frame and falls only at the PUSH of the last pixel or at reset. -/
def Obligations.ActiveSpansStartToLastPixel : Prop :=
  ∀ s t : State, s.Inv → step s = .next t →
    (s.active = false → t.active = true →
      ∃ w b rest, s.input = .command w :: rest ∧ decode w = .legal (.start b) ∧
        1 ≤ b.toNat ∧ b.toNat ≤ 8 ∧ s.width ≠ 0 ∧ s.height ≠ 0) ∧
    (s.active = true → t.active = false →
      (∃ rest, s.input = .reset :: rest) ∨
      ∃ w p rest, s.input = .command w :: rest ∧ decode w = .legal (.push p) ∧
        s.xpos.toNat + 1 = s.width.toNat ∧ s.ypos.toNat + 1 = s.height.toNat)

/-- R18: DONE rises only when a frame completes: by the PUSH of the last pixel, or by an accepted START of an empty frame. -/
def Obligations.DoneRisesOnlyWhenAFrameCompletes : Prop :=
  ∀ s t : State, s.Inv → step s = .next t → s.done = false → t.done = true →
    ∃ w rest, s.input = .command w :: rest ∧
      ((∃ p, decode w = .legal (.push p) ∧ s.active = true ∧
          s.xpos.toNat + 1 = s.width.toNat ∧ s.ypos.toNat + 1 = s.height.toNat) ∨
        (∃ b, decode w = .legal (.start b) ∧ s.active = false ∧ 1 ≤ b.toNat ∧ b.toNat ≤ 8 ∧
          (s.width = 0 ∨ s.height = 0)))

/-- R52, R85 and D18: PACKC disturbs nothing: it commutes with every command word that is not itself a PACKC. -/
def Obligations.PackcCommutesWithOtherCommands : Prop :=
  ∀ (s : State) (r g b : Channel) (w : Word), (∀ r' g' b', decode w ≠ .legal (.packc r' g' b')) →
    executeWords [encode (.packc r g b), w] s = executeWords [w, encode (.packc r g b)] s

/-- R54, R55: over any sequence of command words PALQ gains one packed colour per PACKC, in order, whatever stands between. -/
def Obligations.PalqIsThePackcCommandsInOrder : Prop :=
  ∀ (cmds : List Word) (s : State), ∃ t, executeWords cmds s = .next t ∧
    t.palq = s.palq ++ cmds.filterMap fun w =>
      match (decode w).instr? with
      | some (.packc r g b) => some (packColor r g b)
      | _ => none

/-! ## Steps and ports -/

/-- R26, R36: a step runs the command the accepted word decodes to, on the state whose next event it no longer is; the table's
word presented by `withFetchWord` is that command. That the state lists what the host does next is the model's choice (log entry
1). -/
def Obligations.StepRunsTheDecodedCommand : Prop :=
  (∀ (s : State) (w : Word) (i : Instr) (rest : List HostEvent),
    s.input = .command w :: rest → decode w = .legal i → step s = exec i { s with input := rest }) ∧
  (∀ (s : State) (nbits w : Nat) (i : Instr),
    decodeTableWord nbits w = some i → step (s.withFetchWord nbits w) = exec i s)

/-- R36: the behaviour of a command sequence is the left fold over it: the machine run on the words of `cmds` ends where executing
them one after the other does, whatever the host does afterwards. -/
def Obligations.RunIsTheFoldOfTheCommands : Prop :=
  ∀ (cmds : List Word) (s : State) (rest : List HostEvent), s.input = cmds.map .command ++ rest →
    core.run cmds.length s = executeWords cmds { s with input := rest }

/-- R26, R24: with no event from the host the block waits unchanged (the model's reading, log entry 2). -/
def Obligations.TheBlockWaitsWithoutInput : Prop :=
  ∀ s : State, s.input = [] → step s = .next s

/-- R27: taking at the PAL port delivers the oldest waiting word, once, and changes nothing else; with none waiting no transfer
happens. The delivery event and the count `palTaken` are the model's (log entry 3). -/
def Obligations.PalPortDeliversInOrder : Prop :=
  ∀ (s : State) (rest : List HostEvent), s.input = .takePal :: rest →
    (∀ v, s.palData = some v →
      step s = .next { s with palTaken := s.palTaken + 1, input := rest } ∧
      State.palDelivered { s with palTaken := s.palTaken + 1, input := rest } = s.palDelivered ++ [v]) ∧
    (s.palData = none → step s = .next { s with input := rest }) ∧
    (s.palValid = true ↔ s.palData.isSome = true)

/-- R28: taking at the BYTE port delivers the oldest waiting byte, once, and changes nothing else; with none waiting no transfer
happens. The delivery event and the count `byteTaken` are the model's (log entry 3). -/
def Obligations.BytePortDeliversInOrder : Prop :=
  ∀ (s : State) (rest : List HostEvent), s.input = .takeByte :: rest →
    (∀ v, s.byteData = some v →
      step s = .next { s with byteTaken := s.byteTaken + 1, input := rest } ∧
      State.byteDelivered { s with byteTaken := s.byteTaken + 1, input := rest } = s.byteDelivered ++ [v]) ∧
    (s.byteData = none → step s = .next { s with input := rest }) ∧
    (s.byteValid = true ↔ s.byteData.isSome = true)

/-- R27, R28, R37: what was delivered is a part of what was emitted, from the front; a step that is no reset delivers at most one
more item at each port, the next in emission order, and never takes a delivery back. The counts of delivered items are the
model's (log entry 3). -/
def Obligations.DeliveryIsLosslessAndInOrder : Prop :=
  ∀ s t : State, s.Inv → step s = .next t → (∀ rest, s.input ≠ .reset :: rest) →
    t.palDelivered <+: t.palq ∧ t.byteDelivered <+: t.byteq ∧
    (t.palDelivered = s.palDelivered ∨ ∃ v, s.palData = some v ∧ t.palDelivered = s.palDelivered ++ [v]) ∧
    (t.byteDelivered = s.byteDelivered ∨ ∃ v, s.byteData = some v ∧ t.byteDelivered = s.byteDelivered ++ [v])

/-! ## Frames -/

/-- R31, R32: byte q of a frame holds stream bits 8q to 8q+7, the earliest in bit 7; a position at or beyond BITS holds 0; pixel
k contributes its bits from the most significant down. -/
def Obligations.BitOrderOfTheStream : Prop :=
  ∀ (b w h : Nat) (p : List Index), 1 ≤ b → b ≤ 8 → p.length = w * h →
    (packFrame b w h p).length = (w * h * b + 7) / 8 ∧
    (∀ q j, q < (w * h * b + 7) / 8 → j < 8 →
      ((packFrame b w h p)[q]?).map (fun x => x.getLsbD (7 - j)) = some (streamBit b (w * h * b) p (8 * q + j))) ∧
    (∀ j, w * h * b ≤ j → streamBit b (w * h * b) p j = false) ∧
    (∀ k m, k < w * h → m < b →
      streamBit b (w * h * b) p (k * b + m) = ((p[k]?).getD 0).getLsbD (b - 1 - m))

/-- R60: the frame function and the closed form that the spec derives from it, the big-endian byte string of V * 2^(8*NBYTES - BITS), are equal. -/
def Obligations.FrameFunctionClosedForm : Prop :=
  ∀ (b w h : Nat) (p : List Index), 1 ≤ b → b ≤ 8 → p.length = w * h → (∀ x ∈ p, x.toNat < 2 ^ b) →
    packFrame b w h p = packFrameClosed b w h p

/-- S9: the indices of a frame are read back from its bytes, so no information is lost. -/
def Obligations.FrameBytesGiveBackTheIndices : Prop :=
  ∀ (b w h : Nat) (p : List Index), 1 ≤ b → b ≤ 8 → p.length = w * h → (∀ x ∈ p, x.toNat < 2 ^ b) →
    unpackFrame b (w * h) (packFrame b w h p) = p

/-- Section 6 of spec/41_bit_packer.md, derived there from R56 to R60 (R61 (a) to (d)): from any state with ACTIVE = 0, the commands of a frame, with any number of NOP and PACKC among them, append
exactly the frame's bytes, ceil(W*H*b/8) of them, end the frame and set no flag. -/
def Obligations.FrameCommandsAppendTheFrame : Prop :=
  ∀ (s : State) (b : BppField) (w h : Dim) (p : List Index) (cmds : List Instr),
    s.active = false → 1 ≤ b.toNat → b.toNat ≤ 8 → p.length = w.toNat * h.toNat → (∀ x ∈ p, x.toNat < 2 ^ b.toNat) →
    cmds.filter (fun i => !i.isTransparent) = frameCommands b w h p →
    ∃ t, executeWords (cmds.map encode) s = .next t ∧
      t.byteq = s.byteq ++ packFrame b.toNat w.toNat h.toNat p ∧
      t.byteq.length = s.byteq.length + (w.toNat * h.toNat * b.toNat + 7) / 8 ∧
      t.active = false ∧ t.done = true ∧ t.acc = 0 ∧ t.nacc = 0 ∧ t.bpp.toNat = b.toNat ∧
      t.width = w ∧ t.height = h ∧
      t.xpos = 0 ∧ t.ypos = (if w.toNat * h.toNat = 0 then 0 else h) ∧ t.err = s.err

/-- Section 6 of spec/41_bit_packer.md, derived there (R61 (e), (f)), with R13 and R14: inside such a sequence, after k pixels XPOS = k mod W, YPOS = floor(k / W), NACC = (k*b) mod 8 and
exactly floor(k*b / 8) bytes of the frame have been appended; DONE becomes 1 with the last pixel (or with START of an empty
frame) and not before. -/
def Obligations.FrameProgressAfterEveryPixel : Prop :=
  ∀ (s : State) (b : BppField) (w h : Dim) (p : List Index) (pre post : List Instr),
    s.active = false → 1 ≤ b.toNat → b.toNat ≤ 8 → p.length = w.toNat * h.toNat → (∀ x ∈ p, x.toNat < 2 ^ b.toNat) →
    (pre ++ post).filter (fun i => !i.isTransparent) = frameCommands b w h p →
    let k := (pre.filter Instr.isPush).length
    ∃ m, executeWords (pre.map encode) s = .next m ∧ m.err = s.err ∧
      (.start b ∉ pre → m.active = false ∧ m.done = s.done ∧ m.byteq = s.byteq) ∧
      (.start b ∈ pre → k < w.toNat * h.toNat →
        m.active = true ∧ m.done = false ∧ m.xpos.toNat = k % w.toNat ∧ m.ypos.toNat = k / w.toNat ∧
        m.nacc.toNat = k * b.toNat % 8 ∧ m.byteq.length = s.byteq.length + k * b.toNat / 8) ∧
      (.start b ∈ pre → k = w.toNat * h.toNat → m.active = false ∧ m.done = true)

/-- Section 5 of spec/70_reset_and_hazards.md, derived there from R58 (R89): what follows an accepted START depends on WIDTH, HEIGHT, bpp and the commands alone: from two states that agree only in
WIDTH, HEIGHT and ACTIVE = 0, any sequence of command words appends the same bytes and leaves the same Bit Packer registers,
whatever the earlier logs, position, accumulator, DONE and ERR were. -/
def Obligations.FramesAreIndependentOfThePast : Prop :=
  ∀ (s₁ s₂ : State) (b : BppField) (cmds : List Word),
    s₁.active = false → s₂.active = false → s₁.width = s₂.width → s₁.height = s₂.height →
    1 ≤ b.toNat → b.toNat ≤ 8 →
    ∃ t₁ t₂ out, executeWords (encode (.start b) :: cmds) s₁ = .next t₁ ∧
      executeWords (encode (.start b) :: cmds) s₂ = .next t₂ ∧
      t₁.byteq = s₁.byteq ++ out ∧ t₂.byteq = s₂.byteq ++ out ∧
      t₁.width = t₂.width ∧ t₁.height = t₂.height ∧ t₁.bpp = t₂.bpp ∧ t₁.xpos = t₂.xpos ∧ t₁.ypos = t₂.ypos ∧
      t₁.acc = t₂.acc ∧ t₁.nacc = t₂.nacc ∧ t₁.active = t₂.active ∧ t₁.done = t₂.done

/-- R92 with R54, R61, R82 to R84: a host that keeps its duties and presents the words of a CONVERT to a block that is idle and
free of errors gets a good conversion: the packed palette in PALQ, the packed frame in BYTEQ, ERR = 0. That the state lists the
host's words is the model's choice (log entry 1). -/
def Obligations.ConvertIsAGoodConversion : Prop :=
  ∀ (s : State) (bpp w h : Nat) (entries : List (Nat × Nat × Nat)) (pixels : List Nat) (rest : List HostEvent),
    s.active = false → s.err = 0 → paletteDuty bpp entries = true → frameDuty bpp w h pixels = true →
    triplesInRange entries = true →
    ∃ words, assemble (.convert bpp w h entries pixels) = some words ∧
      ∃ t : State, core.run words.length ({ s with input := words.map .command ++ rest } : State) = .next t ∧
        t.goodConversion = true ∧ t.input = rest ∧
        t.palq = s.palq ++ entries.map (fun e =>
          packColor (BitVec.ofNat 8 e.1) (BitVec.ofNat 8 e.2.1) (BitVec.ofNat 8 e.2.2)) ∧
        t.byteq = s.byteq ++ packFrame bpp w h (pixels.map (BitVec.ofNat 8))
end

