-- ==== Sys2Proof/Laws/Operands.lean ====
section
/-! SUPPORT. What the operand tests, masks and the packer's datapath compute, in products and remainders. -/

namespace Sys2Proof.Machine

theorem bppInRange_iff (b : BppField) : bppInRange b = true ↔ 1 ≤ b.toNat ∧ b.toNat ≤ 8 := by
  rw [bppInRange, Bool.and_eq_true, decide_eq_true_eq, decide_eq_true_eq]
  exact Iff.rfl

theorem bppRegister_toNat {b : BppField} (h : bppInRange b = true) : (bppRegister b).toNat = b.toNat := by
  have := (bppInRange_iff b).1 h
  simp only [bppRegister, BitVec.extractLsb'_toNat, Nat.shiftRight_zero]
  omega

theorem idxOutOfRange_iff (b : Nat) (idx : Index) : idxOutOfRange b idx = true ↔ 2 ^ b ≤ idx.toNat := by
  rw [idxOutOfRange, bne_iff_ne, Nat.shiftRight_eq_div_pow, Nat.ne_zero_iff_zero_lt, Nat.div_pos_iff]
  have := Nat.two_pow_pos b
  omega

theorem maskIdx_eq_mod (b : Nat) (idx : Index) : maskIdx b idx = idx.toNat % 2 ^ b := by
  rw [maskIdx, Nat.shiftLeft_eq, Nat.one_mul, Nat.and_two_pow_sub_one_eq_mod]

theorem maskIdx_lt (b : Nat) (idx : Index) : maskIdx b idx < 2 ^ b := by
  rw [maskIdx_eq_mod]; exact Nat.mod_lt _ (Nat.two_pow_pos b)

/-- The waiting bits with a pixel's bits behind them, as a sum: the two parts do not overlap. -/
theorem join_eq_add {b v : Nat} (acc : Nat) (h : v < 2 ^ b) : (acc <<< b) ||| v = acc * 2 ^ b + v := by
  rw [Nat.shiftLeft_eq, Nat.mul_comm, Nat.two_pow_add_eq_or_of_lt h]

theorem join_lt {acc nacc b v : Nat} (ha : acc < 2 ^ nacc) (hv : v < 2 ^ b) : (acc <<< b) ||| v < 2 ^ (nacc + b) := by
  rw [join_eq_add acc hv, Nat.pow_add]
  calc acc * 2 ^ b + v < acc * 2 ^ b + 2 ^ b := by omega
    _ = (acc + 1) * 2 ^ b := by ring
    _ ≤ 2 ^ nacc * 2 ^ b := Nat.mul_le_mul_right _ ha

/-- All that the datapath of PUSH does, for at most 15 bits: whether a byte leaves, which, and what waits. -/
theorem shiftIn_cases {acc nacc b v : Nat} (hv : v < 2 ^ b) :
    (8 ≤ nacc + b ∧ shiftIn acc nacc b v =
      { bytes := [BitVec.ofNat 8 ((acc * 2 ^ b + v) / 2 ^ (nacc + b - 8))]
        t := (acc * 2 ^ b + v) % 2 ^ (nacc + b - 8)
        n := nacc + b - 8 }) ∨
    (nacc + b < 8 ∧ shiftIn acc nacc b v = { bytes := [], t := acc * 2 ^ b + v, n := nacc + b }) := by
  simp only [shiftIn, join_eq_add acc hv]
  split
  · refine .inl ⟨‹_›, ?_⟩
    rw [Nat.shiftLeft_eq, Nat.one_mul, Nat.and_two_pow_sub_one_eq_mod, Nat.shiftRight_eq_div_pow,
      show (0xFF : Nat) = 2 ^ 8 - 1 from rfl, Nat.and_two_pow_sub_one_eq_mod]
    congr 2
    apply BitVec.eq_of_toNat_eq
    simp
  · exact .inr ⟨by omega, rfl⟩

/-- What waits after a pixel fits the registers ACC and NACC. -/
theorem shiftIn_fits {acc nacc b v : Nat} (ha : acc < 2 ^ nacc) (hv : v < 2 ^ b) (hn : nacc ≤ 7) (hb : b ≤ 8) :
    (shiftIn acc nacc b v).n ≤ 7 ∧ (shiftIn acc nacc b v).t < 2 ^ (shiftIn acc nacc b v).n := by
  have hlt := join_lt ha hv
  rw [join_eq_add acc hv] at hlt
  rcases shiftIn_cases (acc := acc) (nacc := nacc) hv with ⟨h, e⟩ | ⟨h, e⟩ <;> rw [e]
  · exact ⟨by simp only; omega, Nat.mod_lt _ (Nat.two_pow_pos _)⟩
  · exact ⟨by simp only; omega, hlt⟩

/-- The pad byte as a product: the waiting bits move to the top of the byte. -/
theorem padBytes_eq (t n : Nat) :
    padBytes t n = if n = 0 then [] else [BitVec.ofNat 8 (t * 2 ^ (8 - n))] := by
  unfold padBytes
  split
  · rfl
  · rw [show (0xFF : Nat) = 2 ^ 8 - 1 from rfl, Nat.and_two_pow_sub_one_eq_mod, Nat.shiftLeft_eq]
    congr 1
    apply BitVec.eq_of_toNat_eq
    simp

/-- The last column, without the subtraction (R13). -/
theorem atRowEnd_iff {s : State} (h : s.xpos.toNat < s.width.toNat) :
    s.atRowEnd = true ↔ s.xpos.toNat + 1 = s.width.toNat := by
  rw [State.atRowEnd, beq_iff_eq, ← BitVec.toNat_inj, BitVec.toNat_sub]
  have := s.width.isLt
  have one : BitVec.toNat (1 : Dim) = 1 := rfl
  omega

/-- A pixel inside the frame is the last one exactly at the end of the last row (R14). -/
theorem nextY_eq_height_iff {s : State} (hx : s.xpos.toNat < s.width.toNat) (hy : s.ypos.toNat < s.height.toNat) :
    s.nextY = s.height ↔ s.xpos.toNat + 1 = s.width.toNat ∧ s.ypos.toNat + 1 = s.height.toNat := by
  have hr := atRowEnd_iff hx
  have := s.height.isLt
  unfold State.nextY
  split
  · rw [← BitVec.toNat_inj, BitVec.toNat_add]
    have one : BitVec.toNat (1 : Dim) = 1 := rfl
    constructor
    · intro h; exact ⟨hr.1 ‹_›, by omega⟩
    · intro h; omega
  · rw [← BitVec.toNat_inj]
    constructor
    · intro h; omega
    · intro h; exact absurd (hr.2 h.1) ‹_›

end Sys2Proof.Machine
end

