-- ==== Sys2Proof/Laws/PerInstr.lean ====
section
/-! SUPPORT. Per-instruction families. RowMatch: the word a command encodes to matches the command's row of the opcode map
(spec/30_encoding.md R42). -/

namespace Sys2Proof.Laws.RowMatch

/-- The row is one of the opcode map's, it has the command's mnemonic, and the command's word matches it. -/
def Statement (i : Instr) : Prop :=
  rowOf i ∈ opcodeTable ∧ (rowOf i).mnemonic = i.mnemonic ∧ (rowOf i).matches (encode i) = true

theorem formatC_opcode (op : BitVec 8) (r g b : Channel) :
    formatC op r g b &&& 0xFF000000#32 = op.setWidth 32 <<< 24 := by
  apply BitVec.eq_of_getElem_eq
  intro k hk
  interval_cases k <;> simp [formatC]

theorem formatD_opcode (op : BitVec 8) (v : Dim) :
    formatD op v &&& 0xFFFF0000#32 = op.setWidth 32 <<< 24 := by
  apply BitVec.eq_of_getElem_eq
  intro k hk
  interval_cases k <;> simp [formatD]

theorem formatB_opcode (op : BitVec 8) (v : BitVec 8) :
    formatB op v &&& 0xFFFFFF00#32 = op.setWidth 32 <<< 24 := by
  apply BitVec.eq_of_getElem_eq
  intro k hk
  interval_cases k <;> simp [formatB]

theorem nop : Statement .nop := ⟨by decide, rfl, by decide⟩

theorem packc (r g b : Channel) : Statement (.packc r g b) := by
  refine ⟨?_, rfl, ?_⟩
  · simp [rowOf, opcodeTable]
  · simp only [OpcodeRow.matches, rowOf, encode, formatC_opcode]; decide

theorem setw (w : Dim) : Statement (.setw w) := by
  refine ⟨?_, rfl, ?_⟩
  · simp [rowOf, opcodeTable]
  · simp only [OpcodeRow.matches, rowOf, encode, formatD_opcode]; decide

theorem seth (h : Dim) : Statement (.seth h) := by
  refine ⟨?_, rfl, ?_⟩
  · simp [rowOf, opcodeTable]
  · simp only [OpcodeRow.matches, rowOf, encode, formatD_opcode]; decide

theorem start (bpp : BppField) : Statement (.start bpp) := by
  refine ⟨?_, rfl, ?_⟩
  · simp [rowOf, opcodeTable]
  · simp only [OpcodeRow.matches, rowOf, encode, formatB_opcode]; decide

theorem push (idx : Index) : Statement (.push idx) := by
  refine ⟨?_, rfl, ?_⟩
  · simp [rowOf, opcodeTable]
  · simp only [OpcodeRow.matches, rowOf, encode, formatB_opcode]; decide

end Sys2Proof.Laws.RowMatch
end

