-- ==== Sys2Proof/Laws/State.lean ====
section
/-! SUPPORT. One lemma per field per named update of the state, so that no later proof unfolds a record update. -/

namespace Sys2Proof.Machine

variable (s : State)

/-! ## setErr -/

@[simp] theorem State.setErr_width (x : ErrFlag) : (s.setErr x).width = s.width := rfl
@[simp] theorem State.setErr_height (x : ErrFlag) : (s.setErr x).height = s.height := rfl
@[simp] theorem State.setErr_bpp (x : ErrFlag) : (s.setErr x).bpp = s.bpp := rfl
@[simp] theorem State.setErr_xpos (x : ErrFlag) : (s.setErr x).xpos = s.xpos := rfl
@[simp] theorem State.setErr_ypos (x : ErrFlag) : (s.setErr x).ypos = s.ypos := rfl
@[simp] theorem State.setErr_acc (x : ErrFlag) : (s.setErr x).acc = s.acc := rfl
@[simp] theorem State.setErr_nacc (x : ErrFlag) : (s.setErr x).nacc = s.nacc := rfl
@[simp] theorem State.setErr_active (x : ErrFlag) : (s.setErr x).active = s.active := rfl
@[simp] theorem State.setErr_done (x : ErrFlag) : (s.setErr x).done = s.done := rfl
@[simp] theorem State.setErr_err (x : ErrFlag) : (s.setErr x).err = s.err ||| x.mask := rfl
@[simp] theorem State.setErr_palq (x : ErrFlag) : (s.setErr x).palq = s.palq := rfl
@[simp] theorem State.setErr_byteq (x : ErrFlag) : (s.setErr x).byteq = s.byteq := rfl
@[simp] theorem State.setErr_palTaken (x : ErrFlag) : (s.setErr x).palTaken = s.palTaken := rfl
@[simp] theorem State.setErr_byteTaken (x : ErrFlag) : (s.setErr x).byteTaken = s.byteTaken := rfl
@[simp] theorem State.setErr_input (x : ErrFlag) : (s.setErr x).input = s.input := rfl

/-! ## emitPal -/

@[simp] theorem State.emitPal_width (v : PalWord) : (s.emitPal v).width = s.width := rfl
@[simp] theorem State.emitPal_height (v : PalWord) : (s.emitPal v).height = s.height := rfl
@[simp] theorem State.emitPal_bpp (v : PalWord) : (s.emitPal v).bpp = s.bpp := rfl
@[simp] theorem State.emitPal_xpos (v : PalWord) : (s.emitPal v).xpos = s.xpos := rfl
@[simp] theorem State.emitPal_ypos (v : PalWord) : (s.emitPal v).ypos = s.ypos := rfl
@[simp] theorem State.emitPal_acc (v : PalWord) : (s.emitPal v).acc = s.acc := rfl
@[simp] theorem State.emitPal_nacc (v : PalWord) : (s.emitPal v).nacc = s.nacc := rfl
@[simp] theorem State.emitPal_active (v : PalWord) : (s.emitPal v).active = s.active := rfl
@[simp] theorem State.emitPal_done (v : PalWord) : (s.emitPal v).done = s.done := rfl
@[simp] theorem State.emitPal_err (v : PalWord) : (s.emitPal v).err = s.err := rfl
@[simp] theorem State.emitPal_palq (v : PalWord) : (s.emitPal v).palq = s.palq ++ [v] := rfl
@[simp] theorem State.emitPal_byteq (v : PalWord) : (s.emitPal v).byteq = s.byteq := rfl
@[simp] theorem State.emitPal_palTaken (v : PalWord) : (s.emitPal v).palTaken = s.palTaken := rfl
@[simp] theorem State.emitPal_byteTaken (v : PalWord) : (s.emitPal v).byteTaken = s.byteTaken := rfl
@[simp] theorem State.emitPal_input (v : PalWord) : (s.emitPal v).input = s.input := rfl

/-! ## emitBytes -/

@[simp] theorem State.emitBytes_width (bs : List Byte) : (s.emitBytes bs).width = s.width := rfl
@[simp] theorem State.emitBytes_height (bs : List Byte) : (s.emitBytes bs).height = s.height := rfl
@[simp] theorem State.emitBytes_bpp (bs : List Byte) : (s.emitBytes bs).bpp = s.bpp := rfl
@[simp] theorem State.emitBytes_xpos (bs : List Byte) : (s.emitBytes bs).xpos = s.xpos := rfl
@[simp] theorem State.emitBytes_ypos (bs : List Byte) : (s.emitBytes bs).ypos = s.ypos := rfl
@[simp] theorem State.emitBytes_acc (bs : List Byte) : (s.emitBytes bs).acc = s.acc := rfl
@[simp] theorem State.emitBytes_nacc (bs : List Byte) : (s.emitBytes bs).nacc = s.nacc := rfl
@[simp] theorem State.emitBytes_active (bs : List Byte) : (s.emitBytes bs).active = s.active := rfl
@[simp] theorem State.emitBytes_done (bs : List Byte) : (s.emitBytes bs).done = s.done := rfl
@[simp] theorem State.emitBytes_err (bs : List Byte) : (s.emitBytes bs).err = s.err := rfl
@[simp] theorem State.emitBytes_palq (bs : List Byte) : (s.emitBytes bs).palq = s.palq := rfl
@[simp] theorem State.emitBytes_byteq (bs : List Byte) : (s.emitBytes bs).byteq = s.byteq ++ bs := rfl
@[simp] theorem State.emitBytes_palTaken (bs : List Byte) : (s.emitBytes bs).palTaken = s.palTaken := rfl
@[simp] theorem State.emitBytes_byteTaken (bs : List Byte) : (s.emitBytes bs).byteTaken = s.byteTaken := rfl
@[simp] theorem State.emitBytes_input (bs : List Byte) : (s.emitBytes bs).input = s.input := rfl

/-! ## freshFrame -/

@[simp] theorem State.freshFrame_width (b : BppField) : (s.freshFrame b).width = s.width := rfl
@[simp] theorem State.freshFrame_height (b : BppField) : (s.freshFrame b).height = s.height := rfl
@[simp] theorem State.freshFrame_bpp (b : BppField) : (s.freshFrame b).bpp = bppRegister b := rfl
@[simp] theorem State.freshFrame_xpos (b : BppField) : (s.freshFrame b).xpos = 0 := rfl
@[simp] theorem State.freshFrame_ypos (b : BppField) : (s.freshFrame b).ypos = 0 := rfl
@[simp] theorem State.freshFrame_acc (b : BppField) : (s.freshFrame b).acc = 0 := rfl
@[simp] theorem State.freshFrame_nacc (b : BppField) : (s.freshFrame b).nacc = 0 := rfl
@[simp] theorem State.freshFrame_active (b : BppField) : (s.freshFrame b).active = s.active := rfl
@[simp] theorem State.freshFrame_done (b : BppField) : (s.freshFrame b).done = s.done := rfl
@[simp] theorem State.freshFrame_err (b : BppField) : (s.freshFrame b).err = s.err := rfl
@[simp] theorem State.freshFrame_palq (b : BppField) : (s.freshFrame b).palq = s.palq := rfl
@[simp] theorem State.freshFrame_byteq (b : BppField) : (s.freshFrame b).byteq = s.byteq := rfl
@[simp] theorem State.freshFrame_palTaken (b : BppField) : (s.freshFrame b).palTaken = s.palTaken := rfl
@[simp] theorem State.freshFrame_byteTaken (b : BppField) : (s.freshFrame b).byteTaken = s.byteTaken := rfl
@[simp] theorem State.freshFrame_input (b : BppField) : (s.freshFrame b).input = s.input := rfl

/-! ## flagIdx -/

@[simp] theorem State.flagIdx_width (i : Index) : (s.flagIdx i).width = s.width := by
  unfold State.flagIdx; split <;> rfl
@[simp] theorem State.flagIdx_height (i : Index) : (s.flagIdx i).height = s.height := by
  unfold State.flagIdx; split <;> rfl
@[simp] theorem State.flagIdx_bpp (i : Index) : (s.flagIdx i).bpp = s.bpp := by
  unfold State.flagIdx; split <;> rfl
@[simp] theorem State.flagIdx_xpos (i : Index) : (s.flagIdx i).xpos = s.xpos := by
  unfold State.flagIdx; split <;> rfl
@[simp] theorem State.flagIdx_ypos (i : Index) : (s.flagIdx i).ypos = s.ypos := by
  unfold State.flagIdx; split <;> rfl
@[simp] theorem State.flagIdx_acc (i : Index) : (s.flagIdx i).acc = s.acc := by
  unfold State.flagIdx; split <;> rfl
@[simp] theorem State.flagIdx_nacc (i : Index) : (s.flagIdx i).nacc = s.nacc := by
  unfold State.flagIdx; split <;> rfl
@[simp] theorem State.flagIdx_active (i : Index) : (s.flagIdx i).active = s.active := by
  unfold State.flagIdx; split <;> rfl
@[simp] theorem State.flagIdx_done (i : Index) : (s.flagIdx i).done = s.done := by
  unfold State.flagIdx; split <;> rfl
@[simp] theorem State.flagIdx_err (i : Index) : (s.flagIdx i).err = if idxOutOfRange s.bpp.toNat i then s.err ||| ErrFlag.idx.mask else s.err := by
  unfold State.flagIdx; split <;> rfl
@[simp] theorem State.flagIdx_palq (i : Index) : (s.flagIdx i).palq = s.palq := by
  unfold State.flagIdx; split <;> rfl
@[simp] theorem State.flagIdx_byteq (i : Index) : (s.flagIdx i).byteq = s.byteq := by
  unfold State.flagIdx; split <;> rfl
@[simp] theorem State.flagIdx_palTaken (i : Index) : (s.flagIdx i).palTaken = s.palTaken := by
  unfold State.flagIdx; split <;> rfl
@[simp] theorem State.flagIdx_byteTaken (i : Index) : (s.flagIdx i).byteTaken = s.byteTaken := by
  unfold State.flagIdx; split <;> rfl
@[simp] theorem State.flagIdx_input (i : Index) : (s.flagIdx i).input = s.input := by
  unfold State.flagIdx; split <;> rfl

/-! ## advance (what PUSH does not change, and the position) -/

@[simp] theorem State.advance_width (d : Shifted) : (s.advance d).width = s.width := by
  unfold State.advance; split <;> rfl
@[simp] theorem State.advance_height (d : Shifted) : (s.advance d).height = s.height := by
  unfold State.advance; split <;> rfl
@[simp] theorem State.advance_bpp (d : Shifted) : (s.advance d).bpp = s.bpp := by
  unfold State.advance; split <;> rfl
@[simp] theorem State.advance_xpos (d : Shifted) : (s.advance d).xpos = s.nextX := by
  unfold State.advance; split <;> rfl
@[simp] theorem State.advance_ypos (d : Shifted) : (s.advance d).ypos = s.nextY := by
  unfold State.advance; split <;> rfl
@[simp] theorem State.advance_err (d : Shifted) : (s.advance d).err = s.err := by
  unfold State.advance; split <;> rfl
@[simp] theorem State.advance_palq (d : Shifted) : (s.advance d).palq = s.palq := by
  unfold State.advance; split <;> rfl
@[simp] theorem State.advance_palTaken (d : Shifted) : (s.advance d).palTaken = s.palTaken := by
  unfold State.advance; split <;> rfl
@[simp] theorem State.advance_byteTaken (d : Shifted) : (s.advance d).byteTaken = s.byteTaken := by
  unfold State.advance; split <;> rfl
@[simp] theorem State.advance_input (d : Shifted) : (s.advance d).input = s.input := by
  unfold State.advance; split <;> rfl

/-! ## takePalWord -/

@[simp] theorem takePalWord_width : (takePalWord s).width = s.width := by
  unfold takePalWord; split <;> rfl
@[simp] theorem takePalWord_height : (takePalWord s).height = s.height := by
  unfold takePalWord; split <;> rfl
@[simp] theorem takePalWord_bpp : (takePalWord s).bpp = s.bpp := by
  unfold takePalWord; split <;> rfl
@[simp] theorem takePalWord_xpos : (takePalWord s).xpos = s.xpos := by
  unfold takePalWord; split <;> rfl
@[simp] theorem takePalWord_ypos : (takePalWord s).ypos = s.ypos := by
  unfold takePalWord; split <;> rfl
@[simp] theorem takePalWord_acc : (takePalWord s).acc = s.acc := by
  unfold takePalWord; split <;> rfl
@[simp] theorem takePalWord_nacc : (takePalWord s).nacc = s.nacc := by
  unfold takePalWord; split <;> rfl
@[simp] theorem takePalWord_active : (takePalWord s).active = s.active := by
  unfold takePalWord; split <;> rfl
@[simp] theorem takePalWord_done : (takePalWord s).done = s.done := by
  unfold takePalWord; split <;> rfl
@[simp] theorem takePalWord_err : (takePalWord s).err = s.err := by
  unfold takePalWord; split <;> rfl
@[simp] theorem takePalWord_palq : (takePalWord s).palq = s.palq := by
  unfold takePalWord; split <;> rfl
@[simp] theorem takePalWord_byteq : (takePalWord s).byteq = s.byteq := by
  unfold takePalWord; split <;> rfl
@[simp] theorem takePalWord_palTaken : (takePalWord s).palTaken = if s.palValid then s.palTaken + 1 else s.palTaken := by
  unfold takePalWord; split <;> rfl
@[simp] theorem takePalWord_byteTaken : (takePalWord s).byteTaken = s.byteTaken := by
  unfold takePalWord; split <;> rfl
@[simp] theorem takePalWord_input : (takePalWord s).input = s.input := by
  unfold takePalWord; split <;> rfl

/-! ## takeByte -/

@[simp] theorem takeByte_width : (takeByte s).width = s.width := by
  unfold takeByte; split <;> rfl
@[simp] theorem takeByte_height : (takeByte s).height = s.height := by
  unfold takeByte; split <;> rfl
@[simp] theorem takeByte_bpp : (takeByte s).bpp = s.bpp := by
  unfold takeByte; split <;> rfl
@[simp] theorem takeByte_xpos : (takeByte s).xpos = s.xpos := by
  unfold takeByte; split <;> rfl
@[simp] theorem takeByte_ypos : (takeByte s).ypos = s.ypos := by
  unfold takeByte; split <;> rfl
@[simp] theorem takeByte_acc : (takeByte s).acc = s.acc := by
  unfold takeByte; split <;> rfl
@[simp] theorem takeByte_nacc : (takeByte s).nacc = s.nacc := by
  unfold takeByte; split <;> rfl
@[simp] theorem takeByte_active : (takeByte s).active = s.active := by
  unfold takeByte; split <;> rfl
@[simp] theorem takeByte_done : (takeByte s).done = s.done := by
  unfold takeByte; split <;> rfl
@[simp] theorem takeByte_err : (takeByte s).err = s.err := by
  unfold takeByte; split <;> rfl
@[simp] theorem takeByte_palq : (takeByte s).palq = s.palq := by
  unfold takeByte; split <;> rfl
@[simp] theorem takeByte_byteq : (takeByte s).byteq = s.byteq := by
  unfold takeByte; split <;> rfl
@[simp] theorem takeByte_palTaken : (takeByte s).palTaken = s.palTaken := by
  unfold takeByte; split <;> rfl
@[simp] theorem takeByte_byteTaken : (takeByte s).byteTaken = if s.byteValid then s.byteTaken + 1 else s.byteTaken := by
  unfold takeByte; split <;> rfl
@[simp] theorem takeByte_input : (takeByte s).input = s.input := by
  unfold takeByte; split <;> rfl

/-! ## applyReset -/

@[simp] theorem applyReset_width : (applyReset s).width = 0 := rfl
@[simp] theorem applyReset_height : (applyReset s).height = 0 := rfl
@[simp] theorem applyReset_bpp : (applyReset s).bpp = 0 := rfl
@[simp] theorem applyReset_xpos : (applyReset s).xpos = 0 := rfl
@[simp] theorem applyReset_ypos : (applyReset s).ypos = 0 := rfl
@[simp] theorem applyReset_acc : (applyReset s).acc = 0 := rfl
@[simp] theorem applyReset_nacc : (applyReset s).nacc = 0 := rfl
@[simp] theorem applyReset_active : (applyReset s).active = false := rfl
@[simp] theorem applyReset_done : (applyReset s).done = false := rfl
@[simp] theorem applyReset_err : (applyReset s).err = 0 := rfl
@[simp] theorem applyReset_palq : (applyReset s).palq = [] := rfl
@[simp] theorem applyReset_byteq : (applyReset s).byteq = [] := rfl
@[simp] theorem applyReset_palTaken : (applyReset s).palTaken = 0 := rfl
@[simp] theorem applyReset_byteTaken : (applyReset s).byteTaken = 0 := rfl
@[simp] theorem applyReset_input : (applyReset s).input = s.input := rfl

/-! ## presentWord -/

@[simp] theorem presentWord_width (nbits w : Nat) : (presentWord s nbits w).width = s.width := rfl
@[simp] theorem presentWord_height (nbits w : Nat) : (presentWord s nbits w).height = s.height := rfl
@[simp] theorem presentWord_bpp (nbits w : Nat) : (presentWord s nbits w).bpp = s.bpp := rfl
@[simp] theorem presentWord_xpos (nbits w : Nat) : (presentWord s nbits w).xpos = s.xpos := rfl
@[simp] theorem presentWord_ypos (nbits w : Nat) : (presentWord s nbits w).ypos = s.ypos := rfl
@[simp] theorem presentWord_acc (nbits w : Nat) : (presentWord s nbits w).acc = s.acc := rfl
@[simp] theorem presentWord_nacc (nbits w : Nat) : (presentWord s nbits w).nacc = s.nacc := rfl
@[simp] theorem presentWord_active (nbits w : Nat) : (presentWord s nbits w).active = s.active := rfl
@[simp] theorem presentWord_done (nbits w : Nat) : (presentWord s nbits w).done = s.done := rfl
@[simp] theorem presentWord_err (nbits w : Nat) : (presentWord s nbits w).err = s.err := rfl
@[simp] theorem presentWord_palq (nbits w : Nat) : (presentWord s nbits w).palq = s.palq := rfl
@[simp] theorem presentWord_byteq (nbits w : Nat) : (presentWord s nbits w).byteq = s.byteq := rfl
@[simp] theorem presentWord_palTaken (nbits w : Nat) : (presentWord s nbits w).palTaken = s.palTaken := rfl
@[simp] theorem presentWord_byteTaken (nbits w : Nat) : (presentWord s nbits w).byteTaken = s.byteTaken := rfl
@[simp] theorem presentWord_input (nbits w : Nat) : (presentWord s nbits w).input = .command (tableWord nbits w) :: s.input := rfl

/-! ## The position functions do not see flags and logs -/

@[simp] theorem State.flagIdx_nextX (i : Index) : (s.flagIdx i).nextX = s.nextX := by
  simp [State.nextX, State.atRowEnd]
@[simp] theorem State.flagIdx_nextY (i : Index) : (s.flagIdx i).nextY = s.nextY := by
  simp [State.nextY, State.atRowEnd]
@[simp] theorem State.emitPal_nextX (v : PalWord) : (s.emitPal v).nextX = s.nextX := rfl
@[simp] theorem State.emitPal_nextY (v : PalWord) : (s.emitPal v).nextY = s.nextY := rfl

end Sys2Proof.Machine
end

