-- ==== Sys2Proof/Laws/Step.lean ====
section
/-! SUPPORT. What commands and command sequences answer. -/

namespace Sys2Proof.Machine

/-- No command is refused and none faults (R73). -/
theorem exec_answers_next (i : Instr) (s : State) : ∃ t, exec i s = .next t := by
  cases i <;> simp only [exec, execNop, execPackc, execSetw, execSeth, execStart, execPush, raise]
  case nop => exact ⟨_, rfl⟩
  case packc => exact ⟨_, rfl⟩
  case setw => split <;> exact ⟨_, rfl⟩
  case seth => split <;> exact ⟨_, rfl⟩
  case start => repeat' split
                all_goals exact ⟨_, rfl⟩
  case push => split <;> exact ⟨_, rfl⟩

theorem executeWord_answers_next (w : Word) (s : State) : ∃ t, executeWord w s = .next t := by
  unfold executeWord
  split
  · exact exec_answers_next _ s
  · exact ⟨_, rfl⟩

theorem executeWord_legal {w : Word} {i : Instr} (h : decode w = .legal i) (s : State) :
    executeWord w s = exec i s := by simp [executeWord, h]

theorem executeWord_illegal {w : Word} {why : IllegalReason} (h : decode w = .illegal why w) (s : State) :
    executeWord w s = .next (s.setErr .ill) := by simp [executeWord, h, execIllegal, raise]

@[simp] theorem executeWords_nil (s : State) : executeWords [] s = .next s := rfl

/-- The first command of a sequence, then the others on what it left (R36). -/
theorem executeWords_cons {w : Word} {ws : List Word} {s t : State} (h : executeWord w s = .next t) :
    executeWords (w :: ws) s = executeWords ws t := by simp [executeWords, h]

/-- Two sequences one after the other (R36). -/
theorem executeWords_append {ws vs : List Word} {s t : State} (h : executeWords ws s = .next t) :
    executeWords (ws ++ vs) s = executeWords vs t := by
  induction ws generalizing s with
  | nil => simp only [executeWords_nil, Host.Outcome.next.injEq] at h; simp [h]
  | cons w ws ih =>
    obtain ⟨u, hu⟩ := executeWord_answers_next w s
    rw [executeWords_cons hu] at h
    rw [List.cons_append, executeWords_cons hu, ih h]

/-- No command sequence stops (R73). -/
theorem executeWords_answers_next (ws : List Word) (s : State) : ∃ t, executeWords ws s = .next t := by
  induction ws generalizing s with
  | nil => exact ⟨s, rfl⟩
  | cons w ws ih =>
    obtain ⟨u, hu⟩ := executeWord_answers_next w s
    obtain ⟨t, ht⟩ := ih u
    exact ⟨t, by rw [executeWords_cons hu, ht]⟩

/-- All that one step can do, by the host's next event. -/
theorem step_cases {s t : State} (h : step s = .next t) :
    (s.input = [] ∧ t = s) ∨
    (∃ w rest, s.input = .command w :: rest ∧ executeWord w { s with input := rest } = .next t) ∨
    (∃ rest, s.input = .reset :: rest ∧ t = { State.reset with input := rest }) ∨
    (∃ rest, s.input = .takePal :: rest ∧ t = takePalWord { s with input := rest }) ∨
    (∃ rest, s.input = .takeByte :: rest ∧ t = takeByte { s with input := rest }) := by
  unfold step stepInput at h
  split at h
  · rename_i he
    cases h
    exact .inl ⟨he, rfl⟩
  · rename_i e rest he
    cases e with
    | command w => exact .inr (.inl ⟨w, rest, he, h⟩)
    | reset => cases h; exact .inr (.inr (.inl ⟨rest, he, rfl⟩))
    | takePal => cases h; exact .inr (.inr (.inr (.inl ⟨rest, he, rfl⟩)))
    | takeByte => cases h; exact .inr (.inr (.inr (.inr ⟨rest, he, rfl⟩)))

/-- All that one command can do to the flags, registers and logs, by its case (R52, R56 to R59, R64). -/
theorem exec_cases {i : Instr} {s t : State} (h : exec i s = .next t) :
    (i = .nop ∧ t = s) ∨
    (∃ r g b, i = .packc r g b ∧ t = s.emitPal (packColor r g b)) ∨
    (∃ w, i = .setw w ∧ (s.active = true ∧ t = s.setErr .seq ∨ s.active = false ∧ t = { s with width := w })) ∨
    (∃ v, i = .seth v ∧ (s.active = true ∧ t = s.setErr .seq ∨ s.active = false ∧ t = { s with height := v })) ∨
    (∃ b, i = .start b ∧
      (s.active = true ∧ t = s.setErr .seq ∨
       s.active = false ∧ bppInRange b = false ∧ t = s.setErr .param ∨
       s.active = false ∧ bppInRange b = true ∧ s.frameIsEmpty = true ∧
         t = { s.freshFrame b with active := false, done := true } ∨
       s.active = false ∧ bppInRange b = true ∧ s.frameIsEmpty = false ∧
         t = { s.freshFrame b with active := true, done := false })) ∨
    (∃ p, i = .push p ∧
      (s.active = false ∧ t = s.setErr .seq ∨
       s.active = true ∧
         t = (s.flagIdx p).advance (shiftIn s.acc.toNat s.nacc.toNat s.bpp.toNat (maskIdx s.bpp.toNat p)))) := by
  cases i with
  | nop => cases h; exact .inl ⟨rfl, rfl⟩
  | packc r g b => cases h; exact .inr (.inl ⟨r, g, b, rfl, rfl⟩)
  | setw w =>
    simp only [exec, execSetw, raise] at h
    refine .inr (.inr (.inl ⟨w, rfl, ?_⟩))
    split at h <;> cases h <;> simp_all
  | seth v =>
    simp only [exec, execSeth, raise] at h
    refine .inr (.inr (.inr (.inl ⟨v, rfl, ?_⟩)))
    split at h <;> cases h <;> simp_all
  | start b =>
    simp only [exec, execStart, raise] at h
    refine .inr (.inr (.inr (.inr (.inl ⟨b, rfl, ?_⟩))))
    split at h
    · cases h; simp_all
    · split at h
      · cases h; simp_all
      · split at h <;> cases h <;> simp_all
  | push p =>
    simp only [exec, execPush, raise] at h
    refine .inr (.inr (.inr (.inr (.inr ⟨p, rfl, ?_⟩))))
    split at h <;> cases h <;> simp_all

end Sys2Proof.Machine
end

