-- ==== Sys2Proof/Tests/Slice0.lean ====
section
/-! SUPPORT. Tests whose expected results are the vectors of spec/95_test_vectors.md and the worked examples of the rules, the
smoke test of WellFormed, and for every statement with hypotheses a state and operands that meet them. -/

namespace Sys2Proof.Tests

open Sys2Proof.Machine

/-! ## Parameters and well-formedness -/

/-- R5, R6: the widths of the types are the parameters. -/
theorem test_widths_are_the_parameters :
    Word = BitVec Config.cmdw ∧ Channel = BitVec Config.chw ∧ PalWord = BitVec Config.palw ∧ Byte = BitVec Config.bytew ∧
      Dim = BitVec Config.dimw ∧ Index = BitVec Config.idxw ∧ BppField = BitVec Config.bppfw ∧
      Config.colourEntryWidth + 8 = Config.cmdw ∧ Config.paletteSize Config.maxBpp = 256 :=
  ⟨rfl, rfl, rfl, rfl, rfl, rfl, rfl, rfl, rfl⟩

/-- R44: the operand values that START and PUSH may refuse are still well-formed commands. -/
theorem test_wellFormed_commands :
    (Instr.start 9).wellFormed = true ∧ (Instr.push 255).wellFormed = true ∧ Instr.nop.wellFormed = true := by decide

/-- R49, R50: one operand out of range for each check, each refused. -/
theorem test_illFormed_refused :
    (Asm.packc 256 0 0).wellFormed = false ∧ (Asm.packc 0 256 0).wellFormed = false ∧
    (Asm.packc 0 0 256).wellFormed = false ∧ (Asm.setw 65536).wellFormed = false ∧ (Asm.seth 65536).wellFormed = false ∧
    (Asm.start 256).wellFormed = false ∧ (Asm.push 256).wellFormed = false ∧ (Asm.word 4294967296).wellFormed = false ∧
    (Asm.palette [(0, 0, 0), (0, 300, 0)]).wellFormed = false ∧ (Asm.frame 4 3 1 [1, 2]).wellFormed = false ∧
    (Asm.frame 256 1 1 [0]).wellFormed = false ∧ (Asm.frame 4 65536 0 []).wellFormed = false ∧
    (Asm.frame 4 0 65536 []).wellFormed = false ∧ (Asm.frame 4 1 1 [256]).wellFormed = false ∧
    (Asm.convert 1 1 1 [(256, 0, 0)] [0]).wellFormed = false ∧ (Asm.convert 1 1 1 [] []).wellFormed = false := by decide

theorem test_assemble_refuses : assemble (.setw 65536) = none := by decide

/-! ## Decoding: vectors V-ENC, the words written from the patterns of R42 -/

theorem test_decode_nop : decode 0b00000000000000000000000000000000#32 = .legal .nop := by decide
theorem test_decode_packc : decode 0b00000001000100100011010001010110#32 = .legal (.packc 0x12 0x34 0x56) := by decide
theorem test_decode_setw : decode 0b00000010000000001111111111111111#32 = .legal (.setw 65535) := by decide
theorem test_decode_seth : decode 0b00000011000000000000000010000111#32 = .legal (.seth 135) := by decide
theorem test_decode_start : decode 0b00000100000000000000000000001001#32 = .legal (.start 9) := by decide
theorem test_decode_push : decode 0b00000101000000000000000011111111#32 = .legal (.push 255) := by decide

/-- V-ENC-2, 3, 10, 11, 13, 19, 22 to 26. -/
theorem test_decode_illegal :
    decode 0x00000001#32 = .illegal .nonzeroNop 0x00000001#32 ∧
    decode 0x00FFFFFF#32 = .illegal .nonzeroNop 0x00FFFFFF#32 ∧
    decode 0x02010000#32 = .illegal .reservedDimBits 0x02010000#32 ∧
    decode 0x02FF0004#32 = .illegal .reservedDimBits 0x02FF0004#32 ∧
    decode 0x03800000#32 = .illegal .reservedDimBits 0x03800000#32 ∧
    decode 0x04000100#32 = .illegal .reservedByteBits 0x04000100#32 ∧
    decode 0x05000100#32 = .illegal .reservedByteBits 0x05000100#32 ∧
    decode 0x05010000#32 = .illegal .reservedByteBits 0x05010000#32 ∧
    decode 0x06000000#32 = .illegal .reservedOpcode 0x06000000#32 ∧
    decode 0x80000000#32 = .illegal .reservedOpcode 0x80000000#32 ∧
    decode 0xFFFFFFFF#32 = .illegal .reservedOpcode 0xFFFFFFFF#32 := by decide

/-- V-CP-20 and section 5's words. -/
theorem test_encode :
    encode (.packc 18 52 86) = 0x01123456#32 ∧ encode (.setw 3) = 0x02000003#32 ∧ encode (.seth 1) = 0x03000001#32 ∧
    encode (.start 7) = 0x04000007#32 ∧ encode (.push 0x55) = 0x05000055#32 ∧ encode .nop = 0x00000000#32 := by decide

theorem test_decodeTableWord : decodeTableWord 32 0x01F80000 = some (.packc 248 0 0) := by decide

theorem test_opcodeTable_disjoint :
    opcodeTable.Pairwise fun a b => (a.mask &&& b.mask) &&& a.pattern ≠ (a.mask &&& b.mask) &&& b.pattern := by decide

/-- The source line `PACKC 248, 0, 0 ; red` of R49 and R51. -/
theorem test_assemble_line :
    assembleText [['P', 'A', 'C', 'K', 'C', ' ', '2', '4', '8', ',', ' ', '0', ',', '0', 'x', '0', ' ', ';', ' ', 'r']] =
      some [0x01F80000#32] := by decide

/-- V-ST-1's words: `FRAME 4, 3, 1, [1, 2, 3]`. -/
theorem test_assemble_frame :
    assemble (.frame 4 3 1 [1, 2, 3]) =
      some [0x02000003#32, 0x03000001#32, 0x04000004#32, 0x05000001#32, 0x05000002#32, 0x05000003#32] := by decide

/-! ## One step of each command -/

/-- The state a result carries. -/
def stateOf : Result → Option State
  | .next s => some s
  | .fault _ => none
  | .refused _ => none

/-- A state inside a frame. -/
def inFrame (w h : Dim) (b : BitVec 4) (x y : Dim) (acc : BitVec 8) (nacc : BitVec 3) : State :=
  { State.reset with width := w, height := h, bpp := b, xpos := x, ypos := y, acc := acc, nacc := nacc, active := true }

/-- V-ST-1 after its first PUSH: WIDTH 3, HEIGHT 1, BPP 4, ACC 0x01, NACC 4. -/
def midFrame : State := inFrame 3 1 4 1 0 0x01 4

/-- V-ST-1 before its last PUSH. -/
def lastPixel : State := inFrame 3 1 4 2 0 0 0

/-- V-ST-1 after its last PUSH: the frame is complete. -/
def afterFrame : State :=
  { State.reset with width := 3, height := 1, bpp := 4, ypos := 1, done := true, byteq := [0x12, 0x30] }

/-- A block with WIDTH = 4 and HEIGHT = 1 set. -/
def configured : State := { State.reset with width := 4, height := 1 }

theorem test_nop_in_frame : stateOf (exec .nop midFrame) = some midFrame := by decide

/-- V-CP-2 (S2) and V-CP-20. -/
theorem test_packc :
    (stateOf (exec (.packc 248 0 0) State.reset)).map State.palq = some [0x00F8#16] ∧
    (stateOf (exec (.packc 18 52 86) midFrame)).map State.palq = some [0xAA11#16] := by decide

/-- V-CP-1, 3 to 18, 21 to 26. -/
theorem test_packColor_vectors :
    packColor 248 252 255 = 0xFFFF#16 ∧ packColor 0 0 0 = 0x0000#16 ∧ packColor 255 0 0 = 0x00F8#16 ∧
    packColor 0 255 0 = 0xE007#16 ∧ packColor 0 0 255 = 0x1F00#16 ∧ packColor 7 3 7 = 0x0000#16 ∧
    packColor 8 4 8 = 0x2108#16 ∧ packColor 0 4 0 = 0x2000#16 ∧ packColor 0 28 0 = 0xE000#16 ∧
    packColor 0 32 0 = 0x0001#16 ∧ packColor 0 224 0 = 0x0007#16 ∧ packColor 128 128 128 = 0x1084#16 ∧
    packColor 200 100 50 = 0x26CB#16 ∧ packColor 171 205 239 = 0x7DAE#16 := by decide

/-- R56's example, and V-ERR-6. -/
theorem test_setw :
    stateOf (exec (.setw 4) State.reset) = some { State.reset with width := 4 } ∧
    stateOf (exec (.setw 5) midFrame) = some { midFrame with err := 0x4 } := by decide

/-- R57's example, and V-ERR-7. -/
theorem test_seth :
    stateOf (exec (.seth 1) State.reset) = some { State.reset with height := 1 } ∧
    stateOf (exec (.seth 5) midFrame) = some { midFrame with err := 0x4 } := by decide

/-- R58's example, the empty frame P4, V-ERR-3 and V-ERR-9. -/
theorem test_start :
    (stateOf (exec (.start 4) configured)).map (fun t => (t.bpp, t.sr)) = some (4, 0x01#8) ∧
    (stateOf (exec (.start 4) State.reset)).map (fun t => (t.bpp, t.sr)) = some (4, 0x02#8) ∧
    (stateOf (exec (.start 9) configured)).map State.sr = some 0x10#8 ∧
    (stateOf (exec (.start 9) midFrame)).map State.sr = some 0x41#8 := by decide

/-- V-ST-3's last PUSH appends a full byte and the pad; V-ST-1's second one leaves NACC = 0. -/
theorem test_push :
    stateOf (exec (.push 0x7F) (inFrame 3 1 7 2 0 0x2A 6)) =
      some { State.reset with width := 3, height := 1, bpp := 7, ypos := 1, done := true, byteq := [0xAB, 0xF8] } ∧
    stateOf (exec (.push 2) midFrame) = some { inFrame 3 1 4 2 0 0 0 with byteq := [0x12] } := by decide

/-- V-ERR-10's first PUSH (idx 4 at bpp 2) and V-ERR-1. -/
theorem test_push_errors :
    (stateOf (exec (.push 4) (inFrame 2 1 2 0 0 0 0))).map (fun t => (t.acc, t.nacc, t.sr)) = some (0, 2, 0x21#8) ∧
    stateOf (exec (.push 1) State.reset) = some { State.reset with err := 0x4 } := by decide

/-- V-ERR-17, and the example of R65. -/
theorem test_illegal_word :
    (stateOf (executeWord 0x05000100#32 State.reset)).map State.sr = some 0x80#8 ∧
    stateOf (executeWord 0xFFFFFFFF#32 State.reset) = some { State.reset with err := 0x8 } := by decide

/-- The interface: the presented word runs as the next step, and a reset and a delivery are steps of their own. -/
theorem test_step :
    stateOf (step (State.reset.withFetchWord 32 0x03000001)) = some { State.reset with height := 1 } ∧
    stateOf (step { afterFrame with input := [.takeByte, .reset] }) =
      some { afterFrame with byteTaken := 1, input := [.reset] } ∧
    stateOf (step { afterFrame with byteTaken := 1, input := [.reset] }) = some State.reset := by decide

/-- V-BP-2, 4, 6, 10 to 13, 21, 22 and the empty frames V-BP-14, 15, 23. -/
theorem test_packFrame_vectors :
    packFrame 4 3 1 [1, 2, 3] = [0x12, 0x30] ∧ packFrame 1 3 3 [1, 0, 1, 0, 1, 0, 1, 0, 1] = [0xAA, 0x80] ∧
    packFrame 3 3 1 [7, 0, 5] = [0xE2, 0x80] ∧ packFrame 7 2 1 [127, 1] = [0xFE, 0x04] ∧
    packFrame 5 3 1 [31, 0, 21] = [0xF8, 0x2A] ∧ packFrame 6 4 1 [63, 0, 42, 21] = [0xFC, 0x0A, 0x95] ∧
    packFrame 3 4 2 [0, 1, 2, 3, 4, 5, 6, 7] = [0x05, 0x39, 0x77] ∧ packFrame 1 3 2 [1, 1, 1, 0, 0, 0] = [0xE0] ∧
    packFrame 2 1 5 [1, 2, 3, 0, 1] = [0x6C, 0x40] ∧ packFrame 4 0 0 [] = [] ∧ packFrame 4 0 5 [] = [] ∧
    packFrame 4 5 0 [] = [] := by decide

/-! ## Witnesses: states and operands that meet the hypotheses of the statements -/

theorem midFrame_inv : midFrame.Inv := by constructor <;> decide
theorem lastPixel_inv : lastPixel.Inv := by constructor <;> decide
theorem afterFrame_inv : afterFrame.Inv := by constructor <;> decide
theorem configured_inv : configured.Inv := by constructor <;> decide

/-- The last pixel of the largest frame (WIDTH = HEIGHT = 65535, BPP = 7). -/
def farCorner : State := inFrame 65535 65535 7 65534 65534 0 0
theorem farCorner_inv : farCorner.Inv := by constructor <;> decide

/-- A byte-wide frame. -/
def byteFrame : State := inFrame 2 1 8 1 0 0 0
theorem byteFrame_inv : byteFrame.Inv := by constructor <;> decide

theorem witness_DecodeOfEncode : (Instr.packc 255 0 255).wellFormed = true := rfl
theorem witness_LegalWord : decode 0x050000FF#32 = .legal (.push 255) := by decide
theorem witness_IllegalWord : ∃ why, decode 0x05000100#32 = .illegal why 0x05000100#32 := ⟨.reservedByteBits, by decide⟩
theorem witness_PseudoInstructions : ([1, 2, 3] : List Index).length = (3 : Dim).toNat * (1 : Dim).toNat := by decide

theorem witness_ResetEvent : ∃ s rest, State.input s = .reset :: rest := ⟨{ midFrame with input := [.reset] }, [], rfl⟩

theorem witness_IdleStatusRecurs : ∃ s t, step s = .next t ∧ (s.active = true ∨ s.done = true) ∧ t.active = false ∧
    t.done = false := ⟨{ midFrame with input := [.reset] }, _, rfl, .inl rfl, rfl, rfl⟩

theorem witness_IrqDoneFallsAtStart : ∃ s t, step s = .next t ∧ s.irqDone = true ∧ t.irqDone = false :=
  ⟨afterFrame.withFetchWord 32 0x04000008, _, rfl, rfl, rfl⟩
theorem witness_IrqDoneFallsAtReset : ∃ s t, step s = .next t ∧ s.irqDone = true ∧ t.irqDone = false :=
  ⟨{ afterFrame with input := [.reset] }, _, rfl, rfl, rfl⟩
theorem witness_IrqErrFallsAtReset : ∃ s t, step s = .next t ∧ s.irqErr = true ∧ t.irqErr = false :=
  ⟨{ afterFrame with err := 0x8, input := [.reset] }, _, rfl, rfl, rfl⟩

theorem witness_SetwSeth : configured.active = false ∧ midFrame.active = true := ⟨rfl, rfl⟩
theorem witness_StartParam : configured.active = false ∧ ((0 : BppField).toNat < 1 ∨ 8 < (0 : BppField).toNat) ∧
    ((9 : BppField).toNat < 1 ∨ 8 < (9 : BppField).toNat) ∧ ((255 : BppField).toNat < 1 ∨ 8 < (255 : BppField).toNat) := by
  decide
theorem witness_StartEmpty : State.reset.active = false ∧ 1 ≤ (1 : BppField).toNat ∧ (8 : BppField).toNat ≤ 8 ∧
    (State.reset.width = 0 ∨ State.reset.height = 0) := by decide
theorem witness_StartNonEmpty : configured.active = false ∧ 1 ≤ (1 : BppField).toNat ∧ (8 : BppField).toNat ≤ 8 ∧
    configured.width ≠ 0 ∧ configured.height ≠ 0 := by decide
theorem witness_Push : midFrame.active = true ∧ midFrame.Inv ∧ lastPixel.active = true ∧ lastPixel.Inv ∧
    farCorner.active = true ∧ farCorner.Inv ∧ afterFrame.active = false :=
  ⟨rfl, midFrame_inv, rfl, lastPixel_inv, rfl, farCorner_inv, rfl⟩
theorem witness_PushSerial : midFrame.Inv := midFrame_inv
theorem witness_PushAtEightBits : byteFrame.active = true ∧ byteFrame.Inv ∧ byteFrame.bpp = 8 := ⟨rfl, byteFrame_inv, rfl⟩
theorem witness_IndexOutOfRange : midFrame.active = true ∧ 2 ^ midFrame.bpp.toNat ≤ (16 : Index).toNat := by decide

theorem witness_IllegalStep : ∃ s w why rest, State.input s = .command w :: rest ∧ decode w = .illegal why w :=
  ⟨{ midFrame with input := [.command 0x07000000] }, 0x07000000, .reservedOpcode, [], rfl, by decide⟩
theorem witness_ParamRises : ∃ w s t, executeWord w s = .next t ∧ s.errParam = false ∧ t.errParam = true :=
  ⟨0x04000009#32, configured, _, rfl, rfl, rfl⟩
theorem witness_SeqRisesInFrame : ∃ w s t, executeWord w s = .next t ∧ s.errSeq = false ∧ t.errSeq = true :=
  ⟨0x02000001#32, midFrame, _, rfl, rfl, rfl⟩
theorem witness_SeqRisesOutsideFrame : ∃ w s t, executeWord w s = .next t ∧ s.errSeq = false ∧ t.errSeq = true :=
  ⟨0x05000001#32, afterFrame, _, rfl, rfl, rfl⟩

theorem witness_StepKeepsInvariant : ∃ s t, State.Inv s ∧ step s = .next t ∧ t.byteq ≠ s.byteq := by
  refine ⟨lastPixel.withFetchWord 32 0x05000003, _, ?_, rfl, ?_⟩
  · constructor <;> decide
  · decide
theorem witness_OnlyGrow : ∃ s t, step s = .next t ∧ (∀ rest, State.input s ≠ .reset :: rest) ∧ t.palq ≠ s.palq :=
  ⟨midFrame.withFetchWord 32 0x01F80000, _, rfl, (by intro rest h; cases h), by decide⟩
theorem witness_ListedCommands : ∃ i s t, exec i s = .next t ∧ t.width ≠ State.width s :=
  ⟨.setw 7, configured, _, rfl, by decide⟩
theorem witness_GeometryFrozen : ∃ s t, s.active = true ∧ step s = .next t ∧ (∀ rest, State.input s ≠ .reset :: rest) :=
  ⟨midFrame.withFetchWord 32 0x02000009, _, rfl, rfl, (by intro rest h; cases h)⟩
theorem witness_ActiveRises : ∃ s t, State.Inv s ∧ step s = .next t ∧ s.active = false ∧ t.active = true := by
  refine ⟨configured.withFetchWord 32 0x04000001, _, ?_, rfl, rfl, rfl⟩
  constructor <;> decide
theorem witness_ActiveFallsDoneRises : ∃ s t, State.Inv s ∧ step s = .next t ∧ s.active = true ∧ t.active = false ∧
    s.done = false ∧ t.done = true := by
  refine ⟨lastPixel.withFetchWord 32 0x05000003, _, ?_, rfl, rfl, rfl, rfl, rfl⟩
  constructor <;> decide
theorem witness_DoneRisesAtEmptyStart : ∃ s t, State.Inv s ∧ step s = .next t ∧ s.done = false ∧ t.done = true := by
  refine ⟨({ configured with height := 0 } : State).withFetchWord 32 0x04000004, _, ?_, rfl, rfl, rfl⟩
  constructor <;> decide
theorem witness_PackcCommutes : ∀ r g b, decode 0x05000003#32 ≠ .legal (.packc r g b) := by
  intro r g b h
  rw [show decode 0x05000003#32 = .legal (.push 3) by decide] at h
  cases h

theorem witness_StepRunsCommand : ∃ s w i rest, State.input s = .command w :: rest ∧ decode w = .legal i :=
  ⟨{ midFrame with input := [.command 0x05000002, .takeByte] }, 0x05000002, .push 2, [.takeByte], rfl, by decide⟩
theorem witness_WithFetchWord : decodeTableWord 32 0x05000002 = some (.push 2) := by decide
theorem witness_RunIsFold : ∃ s : State, s.input = [0x02000004#32, 0x06000000#32].map .command ++ [.takePal] :=
  ⟨{ State.reset with input := [.command 0x02000004, .command 0x06000000, .takePal] }, rfl⟩
theorem witness_Waits : State.reset.input = [] := rfl

theorem witness_PalPortDelivers : ∃ s rest v, State.input s = .takePal :: rest ∧ s.palData = some v :=
  ⟨{ State.reset with palq := [0x00F8], input := [.takePal] }, [], 0x00F8, rfl, rfl⟩
theorem witness_PalPortEmpty : ∃ s rest, State.input s = .takePal :: rest ∧ s.palData = none :=
  ⟨{ State.reset with palq := [0x00F8], palTaken := 1, input := [.takePal] }, [], rfl, rfl⟩
theorem witness_BytePortDelivers : ∃ s rest v, State.input s = .takeByte :: rest ∧ s.byteData = some v :=
  ⟨{ afterFrame with byteTaken := 1, input := [.takeByte] }, [], 0x30, rfl, rfl⟩
theorem witness_BytePortEmpty : ∃ s rest, State.input s = .takeByte :: rest ∧ s.byteData = none :=
  ⟨{ afterFrame with byteTaken := 2, input := [.takeByte] }, [], rfl, rfl⟩
theorem witness_Delivery : ∃ s t, State.Inv s ∧ step s = .next t ∧ (∀ rest, State.input s ≠ .reset :: rest) ∧
    t.byteDelivered = s.byteDelivered ++ [0x30] := by
  refine ⟨{ afterFrame with byteTaken := 1, input := [.takeByte] }, _, ?_, rfl, ?_, by decide⟩
  · constructor <;> decide
  · intro rest h; cases h

theorem witness_BitOrder : 1 ≤ 3 ∧ 3 ≤ 8 ∧ ([7, 0, 5] : List Index).length = 3 * 1 ∧
    (1 : Nat) < (3 * 1 * 3 + 7) / 8 ∧ 3 * 1 * 3 ≤ 9 ∧ 2 < 3 * 1 := by decide
theorem witness_FrameFunction : 1 ≤ 8 ∧ 8 ≤ 8 ∧ ([255, 0] : List Index).length = 2 * 1 ∧
    ∀ x ∈ ([255, 0] : List Index), x.toNat < 2 ^ 8 := by decide

/-- S4's frame with a PACKC and a NOP inside it. -/
def frameWithOthers : List Instr :=
  [.setw 3, .nop, .seth 1, .start 4, .push 1, .packc 248 0 0, .push 2, .push 3]

theorem witness_FrameCommands : afterFrame.active = false ∧ 1 ≤ (4 : BppField).toNat ∧ (4 : BppField).toNat ≤ 8 ∧
    ([1, 2, 3] : List Index).length = (3 : Dim).toNat * (1 : Dim).toNat ∧
    (∀ x ∈ ([1, 2, 3] : List Index), x.toNat < 2 ^ (4 : BppField).toNat) ∧
    frameWithOthers.filter (fun i => !i.isTransparent) = frameCommands 4 3 1 [1, 2, 3] := by decide

/-- Clauses of the progress statement: before START, after two of three pixels, after the last one. -/
theorem witness_FrameProgress :
    Instr.start 4 ∉ frameWithOthers.take 3 ∧
    (Instr.start 4 ∈ frameWithOthers.take 7 ∧ ((frameWithOthers.take 7).filter Instr.isPush).length = 2) ∧
    (Instr.start 4 ∈ frameWithOthers ∧ (frameWithOthers.filter Instr.isPush).length = (3 : Dim).toNat * (1 : Dim).toNat) := by
  decide

theorem witness_Independence : afterFrame.active = false ∧
    ({ afterFrame with err := 0xF, done := false, acc := 0xFF, byteq := [] } : State).active = false ∧
    afterFrame.width = ({ afterFrame with err := 0xF } : State).width ∧ 1 ≤ (8 : BppField).toNat ∧
    (8 : BppField).toNat ≤ 8 := by decide

/-- The palette and the pixels of a 1-bit conversion (P1's palette, V-BP-3's frame). -/
theorem witness_Convert : afterFrame.active = false ∧ afterFrame.err = 0 ∧
    paletteDuty 1 [(0, 0, 0), (255, 255, 255)] = true ∧ frameDuty 1 8 1 [1, 0, 1, 0, 1, 0, 1, 0] = true ∧
    triplesInRange [(0, 0, 0), (255, 255, 255)] = true := by decide

end Sys2Proof.Tests
end

section
/-! SUPPORT. What the operations of the state write, where Sys2Proof/Laws/State.lean does not say it yet. -/

namespace Sys2Proof.Machine

variable (s : State)

/-! ## advance: the fields that depend on whether the frame ends (R59) -/

@[simp] theorem State.advance_active (d : Shifted) :
    (s.advance d).active = if s.nextY = s.height then false else s.active := by
  unfold State.advance; split <;> rfl
@[simp] theorem State.advance_done (d : Shifted) :
    (s.advance d).done = if s.nextY = s.height then true else s.done := by
  unfold State.advance; split <;> rfl
@[simp] theorem State.advance_acc (d : Shifted) :
    (s.advance d).acc = if s.nextY = s.height then 0 else BitVec.ofNat 8 d.t := by
  unfold State.advance; split <;> rfl
@[simp] theorem State.advance_nacc (d : Shifted) :
    (s.advance d).nacc = if s.nextY = s.height then 0 else BitVec.ofNat 3 d.n := by
  unfold State.advance; split <;> rfl
@[simp] theorem State.advance_byteq (d : Shifted) :
    (s.advance d).byteq = s.byteq ++ if s.nextY = s.height then d.bytes ++ padBytes d.t d.n else d.bytes := by
  unfold State.advance; split <;> rfl

/-! ## Flags -/

/-- A flag that is 1 stays 1 when others are set (R20). -/
theorem err_and_or_same (e m : BitVec 4) : e &&& (e ||| m) = e := by
  ext i hi
  simp +contextual

theorem State.err_and_flagIdx (p : Index) : s.err &&& (s.flagIdx p).err = s.err := by
  rw [State.flagIdx_err]
  split
  · exact err_and_or_same _ _
  · exact BitVec.and_self

/-- An index in range is not flagged (R69). -/
theorem State.flagIdx_of_lt {s : State} {p : Index} (h : p.toNat < 2 ^ s.bpp.toNat) : s.flagIdx p = s := by
  have hin : ¬ idxOutOfRange s.bpp.toNat p = true := by rw [idxOutOfRange_iff]; omega
  rw [State.flagIdx, if_neg hin]

/-! ## The frame's dimensions and position -/

/-- A frame has no pixel when one of its dimensions is 0 (R58). -/
theorem State.frameIsEmpty_iff : s.frameIsEmpty = true ↔ s.width = 0 ∨ s.height = 0 := by
  simp [State.frameIsEmpty]

theorem State.frameIsEmpty_eq_false_iff : s.frameIsEmpty = false ↔ s.width ≠ 0 ∧ s.height ≠ 0 := by
  simp [State.frameIsEmpty]

theorem one_le_toNat_iff {v : Dim} : 1 ≤ v.toNat ↔ v ≠ 0 := by
  rw [Nat.one_le_iff_ne_zero, ne_eq, ne_eq, ← BitVec.toNat_inj]
  exact Iff.rfl

/-- Counting a coordinate up does not wrap below the largest dimension. -/
theorem Dim.succ_toNat {v : Dim} (h : v.toNat + 1 < 2 ^ 16) : (v + 1).toNat = v.toNat + 1 :=
  BitVec.toNat_add_of_lt h

variable {s}

/-- The column after a pixel in a frame (R13). -/
theorem State.nextX_toNat (hx : s.xpos.toNat < s.width.toNat) :
    s.nextX.toNat = if s.xpos.toNat + 1 = s.width.toNat then 0 else s.xpos.toNat + 1 := by
  have hw := s.width.isLt
  simp only [State.nextX, atRowEnd_iff hx]
  split
  · rfl
  · exact Dim.succ_toNat (by omega)

/-- The row after a pixel in a frame (R14). -/
theorem State.nextY_toNat (hx : s.xpos.toNat < s.width.toNat) (hy : s.ypos.toNat < s.height.toNat) :
    s.nextY.toNat = if s.xpos.toNat + 1 = s.width.toNat then s.ypos.toNat + 1 else s.ypos.toNat := by
  have hh := s.height.isLt
  simp only [State.nextY, atRowEnd_iff hx]
  split
  · exact Dim.succ_toNat (by omega)
  · rfl

theorem State.nextX_lt (hx : s.xpos.toNat < s.width.toNat) : s.nextX.toNat < s.width.toNat := by
  rw [State.nextX_toNat hx]
  split <;> omega

theorem State.nextY_lt (hx : s.xpos.toNat < s.width.toNat) (hy : s.ypos.toNat < s.height.toNat)
    (hlast : s.nextY ≠ s.height) : s.nextY.toNat < s.height.toNat := by
  have hne : s.nextY.toNat ≠ s.height.toNat := fun h => hlast (BitVec.toNat_inj.1 h)
  rw [State.nextY_toNat hx hy] at hne ⊢
  split at hne <;> split <;> omega

/-- In row-major order the position after a pixel is the next one (R13, R14). -/
theorem State.next_position (hx : s.xpos.toNat < s.width.toNat) (hy : s.ypos.toNat < s.height.toNat) :
    s.nextY.toNat * s.width.toNat + s.nextX.toNat = s.ypos.toNat * s.width.toNat + s.xpos.toNat + 1 := by
  rw [State.nextX_toNat hx, State.nextY_toNat hx hy]
  split
  · rename_i hend
    rw [Nat.succ_mul]
    omega
  · rfl

/-- After the frame's last pixel the column is 0 (R59). -/
theorem State.nextX_eq_zero (hx : s.xpos.toNat < s.width.toNat) (hy : s.ypos.toNat < s.height.toNat)
    (hlast : s.nextY = s.height) : s.nextX = 0 := by
  have hrow := ((nextY_eq_height_iff hx hy).1 hlast).1
  rw [State.nextX, if_pos ((atRowEnd_iff hx).2 hrow)]

end Sys2Proof.Machine
end

section
/-! SUPPORT. How many bits PUSH's datapath leaves waiting and how many bytes it releases. -/

namespace Sys2Proof.Machine

variable {acc nacc b v : Nat}

/-- The waiting bits are what full bytes leave over (R59). -/
theorem shiftIn_n (hv : v < 2 ^ b) (hn : nacc ≤ 7) (hb : b ≤ 8) : (shiftIn acc nacc b v).n = (nacc + b) % 8 := by
  rcases shiftIn_cases (acc := acc) (nacc := nacc) hv with ⟨h, e⟩ | ⟨h, e⟩
  · simp only [e]
    omega
  · simp only [e]
    omega

theorem shiftIn_bytes_length (hv : v < 2 ^ b) (hn : nacc ≤ 7) (hb : b ≤ 8) :
    (shiftIn acc nacc b v).bytes.length = (nacc + b) / 8 := by
  rcases shiftIn_cases (acc := acc) (nacc := nacc) hv with ⟨h, e⟩ | ⟨h, e⟩
  · simp only [e, List.length_singleton]
    omega
  · simp only [e, List.length_nil]
    omega

end Sys2Proof.Machine
end

section
/-! SUPPORT. What each command answers, one equation per case of its rule (R56 to R59). -/

namespace Sys2Proof.Machine

variable {s : State}

theorem exec_setw_idle (idle : s.active = false) (w : Dim) : exec (.setw w) s = .next { s with width := w } := by
  simp [exec, execSetw, idle]

theorem exec_setw_active (active : s.active = true) (w : Dim) : exec (.setw w) s = .next (s.setErr .seq) := by
  simp [exec, execSetw, raise, active]

theorem exec_seth_idle (idle : s.active = false) (h : Dim) : exec (.seth h) s = .next { s with height := h } := by
  simp [exec, execSeth, idle]

theorem exec_seth_active (active : s.active = true) (h : Dim) : exec (.seth h) s = .next (s.setErr .seq) := by
  simp [exec, execSeth, raise, active]

theorem exec_start_active (active : s.active = true) (b : BppField) : exec (.start b) s = .next (s.setErr .seq) := by
  simp [exec, execStart, raise, active]

theorem exec_start_outOfRange (idle : s.active = false) {b : BppField} (hb : bppInRange b = false) :
    exec (.start b) s = .next (s.setErr .param) := by
  simp [exec, execStart, raise, idle, hb]

theorem exec_start_empty (idle : s.active = false) {b : BppField} (hb : bppInRange b = true)
    (empty : s.frameIsEmpty = true) : exec (.start b) s = .next { s.freshFrame b with active := false, done := true } := by
  simp [exec, execStart, idle, hb, empty]

theorem exec_start_frame (idle : s.active = false) {b : BppField} (hb : bppInRange b = true)
    (nonempty : s.frameIsEmpty = false) :
    exec (.start b) s = .next { s.freshFrame b with active := true, done := false } := by
  simp [exec, execStart, idle, hb, nonempty]

theorem exec_push_idle (idle : s.active = false) (p : Index) : exec (.push p) s = .next (s.setErr .seq) := by
  simp [exec, execPush, raise, idle]

theorem exec_push_active (active : s.active = true) (p : Index) : exec (.push p) s =
    .next ((s.flagIdx p).advance (shiftIn s.acc.toNat s.nacc.toNat s.bpp.toNat (maskIdx s.bpp.toNat p))) := by
  simp [exec, execPush, active]

end Sys2Proof.Machine
end

section
/-! SUPPORT. What a command does, by name: its own effect, or a refusal that sets one flag. -/

namespace Sys2Proof.Machine

/-- `Effect s i t`: command `i` takes `s` to `t` (R52, R56 to R59, R64, R73). -/
inductive Effect (s : State) : Instr → State → Prop where
  | nop : Effect s .nop s
  | packc (r g b : Channel) : Effect s (.packc r g b) (s.emitPal (packColor r g b))
  | setw (w : Dim) (idle : s.active = false) : Effect s (.setw w) { s with width := w }
  | seth (h : Dim) (idle : s.active = false) : Effect s (.seth h) { s with height := h }
  | startEmpty (b : BppField) (idle : s.active = false) (inRange : bppInRange b = true)
      (empty : s.frameIsEmpty = true) : Effect s (.start b) { s.freshFrame b with active := false, done := true }
  | startFrame (b : BppField) (idle : s.active = false) (inRange : bppInRange b = true)
      (nonempty : s.frameIsEmpty = false) : Effect s (.start b) { s.freshFrame b with active := true, done := false }
  | push (p : Index) (active : s.active = true) : Effect s (.push p)
      ((s.flagIdx p).advance (shiftIn s.acc.toNat s.nacc.toNat s.bpp.toNat (maskIdx s.bpp.toNat p)))
  | refused (i : Instr) (x : ErrFlag) (notTransparent : i.isTransparent = false) : Effect s i (s.setErr x)

theorem exec_effect {i : Instr} {s t : State} (h : exec i s = .next t) : Effect s i t := by
  rcases exec_cases h with
    ⟨rfl, rfl⟩ | ⟨r, g, b, rfl, rfl⟩ | ⟨w, rfl, hw⟩ | ⟨v, rfl, hv⟩ | ⟨b, rfl, hb⟩ | ⟨p, rfl, hp⟩
  · exact .nop
  · exact .packc r g b
  · rcases hw with ⟨-, rfl⟩ | ⟨idle, rfl⟩
    · exact .refused _ _ rfl
    · exact .setw w idle
  · rcases hv with ⟨-, rfl⟩ | ⟨idle, rfl⟩
    · exact .refused _ _ rfl
    · exact .seth v idle
  · rcases hb with ⟨-, rfl⟩ | ⟨-, -, rfl⟩ | ⟨idle, inRange, empty, rfl⟩ | ⟨idle, inRange, nonempty, rfl⟩
    · exact .refused _ _ rfl
    · exact .refused _ _ rfl
    · exact .startEmpty b idle inRange empty
    · exact .startFrame b idle inRange nonempty
  · rcases hp with ⟨-, rfl⟩ | ⟨active, rfl⟩
    · exact .refused _ _ rfl
    · exact .push p active

/-- A word runs the command it decodes to, or sets ILL (R45, R65). -/
theorem executeWord_cases {w : Word} {s t : State} (h : executeWord w s = .next t) :
    (∃ i, decode w = .legal i ∧ Effect s i t) ∨ t = s.setErr .ill := by
  unfold executeWord at h
  split at h
  · rename_i i hd
    exact .inl ⟨i, hd, exec_effect h⟩
  · cases h
    exact .inr rfl

end Sys2Proof.Machine
end

section
/-! SUPPORT. The invariant of R19, one rule per operation of the state. -/

namespace Sys2Proof.Machine

variable {s : State}

theorem State.Inv.setErr (h : s.Inv) (x : ErrFlag) : (s.setErr x).Inv := { h with }

theorem State.Inv.withInput (h : s.Inv) (l : List HostEvent) : ({ s with input := l } : State).Inv := { h with }

theorem State.Inv.flagIdx (h : s.Inv) (p : Index) : (s.flagIdx p).Inv := by
  unfold State.flagIdx
  split
  · exact h.setErr .idx
  · exact h

theorem State.Inv.emitPal (h : s.Inv) (v : PalWord) : (s.emitPal v).Inv :=
  { h with pal_taken := by have := h.pal_taken; simp; omega }

theorem State.Inv.withWidth (h : s.Inv) (idle : s.active = false) (w : Dim) : ({ s with width := w } : State).Inv :=
  { h with
    active_geometry := fun ha => absurd ha (by simp [idle])
    active_phase := fun ha => absurd ha (by simp [idle]) }

theorem State.Inv.withHeight (h : s.Inv) (idle : s.active = false) (v : Dim) : ({ s with height := v } : State).Inv :=
  { h with active_geometry := fun ha => absurd ha (by simp [idle]) }

/-- BPP holds what an accepted START latched, which is not 0 (R12, R58). -/
theorem bppRegister_ne_zero {b : BppField} (hb : bppInRange b = true) : bppRegister b ≠ 0 := by
  intro h0
  have hzero : (bppRegister b).toNat = 0 := by rw [h0]; rfl
  have hreg := bppRegister_toNat hb
  have hrange := (bppInRange_iff b).1 hb
  omega

theorem State.Inv.startEmpty (h : s.Inv) {b : BppField} (hb : bppInRange b = true) :
    ({ s.freshFrame b with active := false, done := true } : State).Inv where
  bpp_le := by simpa [bppRegister_toNat hb] using ((bppInRange_iff b).1 hb).2
  acc_lt := by simp
  idle_drained _ := ⟨rfl, rfl⟩
  idle_column _ := rfl
  active_geometry := nofun
  active_phase := nofun
  started := ⟨fun _ => .inr rfl, fun _ => bppRegister_ne_zero hb⟩
  pal_taken := h.pal_taken
  byte_taken := h.byte_taken

theorem State.Inv.startFrame (h : s.Inv) {b : BppField} (hb : bppInRange b = true) (hne : s.frameIsEmpty = false) :
    ({ s.freshFrame b with active := true, done := false } : State).Inv where
  bpp_le := by simpa [bppRegister_toNat hb] using ((bppInRange_iff b).1 hb).2
  acc_lt := by simp
  idle_drained := nofun
  idle_column := nofun
  active_geometry _ := by
    obtain ⟨hw, hh⟩ := s.frameIsEmpty_eq_false_iff.1 hne
    have hw1 := one_le_toNat_iff.2 hw
    have hh1 := one_le_toNat_iff.2 hh
    simpa [bppRegister_toNat hb] using ⟨((bppInRange_iff b).1 hb).1, hw1, hh1, hw1, hh1⟩
  active_phase _ := by simp
  started := ⟨fun _ => .inl rfl, fun _ => bppRegister_ne_zero hb⟩
  pal_taken := h.pal_taken
  byte_taken := h.byte_taken

/-- A pixel that ends the frame: nothing waits, and the block is idle (R59). -/
theorem State.Inv.advance_last (h : s.Inv) (ha : s.active = true) (d : Shifted) (hlast : s.nextY = s.height) :
    (s.advance d).Inv where
  bpp_le := by simpa using h.bpp_le
  acc_lt := by simp [hlast]
  idle_drained _ := by simp [hlast]
  idle_column _ := by
    obtain ⟨-, -, -, hx, hy, -⟩ := h.active_geometry ha
    simpa using State.nextX_eq_zero hx hy hlast
  active_geometry := by simp [hlast]
  active_phase := by simp [hlast]
  started := by simpa [hlast] using h.started.2 (.inl ha)
  pal_taken := by simpa using h.pal_taken
  byte_taken := by have := h.byte_taken; simp; omega

/-- A pixel inside the frame: the next position, and the waiting bits in phase with it (R19 (a) to (c), R59). -/
theorem State.Inv.advance_inside (h : s.Inv) (ha : s.active = true) {d : Shifted} (hlast : s.nextY ≠ s.height)
    (hn : d.n = (s.nacc.toNat + s.bpp.toNat) % 8) (ht : d.t < 2 ^ d.n) : (s.advance d).Inv := by
  obtain ⟨hb1, hw1, hh1, hx, hy, hdone⟩ := h.active_geometry ha
  have hn7 : d.n < 8 := by omega
  have ht8 : d.t < 256 := ht.trans (Nat.pow_lt_pow_right (by omega) hn7)
  exact
    { bpp_le := by simpa using h.bpp_le
      acc_lt := by simpa [hlast, Nat.mod_eq_of_lt hn7, Nat.mod_eq_of_lt ht8] using ht
      idle_drained := by simp [hlast, ha]
      idle_column := by simp [hlast, ha]
      active_geometry := fun _ => by
        simpa [hlast, hdone] using ⟨hb1, hw1, hh1, State.nextX_lt hx, State.nextY_lt hx hy hlast⟩
      active_phase := fun _ => by
        have hphase := h.active_phase ha
        simp [hlast, hn, State.next_position hx hy, Nat.add_mul, hphase]
      started := by simpa [hlast, ha] using h.started.2 (.inl ha)
      pal_taken := by simpa using h.pal_taken
      byte_taken := by have := h.byte_taken; simp; omega }

theorem State.Inv.push (h : s.Inv) (ha : s.active = true) (p : Index) :
    ((s.flagIdx p).advance (shiftIn s.acc.toNat s.nacc.toNat s.bpp.toNat (maskIdx s.bpp.toNat p))).Inv := by
  have hf := h.flagIdx p
  have haf : (s.flagIdx p).active = true := by simpa using ha
  have hn7 : s.nacc.toNat ≤ 7 := by have := s.nacc.isLt; omega
  have hv := maskIdx_lt s.bpp.toNat p
  by_cases hlast : (s.flagIdx p).nextY = (s.flagIdx p).height
  · exact hf.advance_last haf _ hlast
  · refine hf.advance_inside haf hlast ?_ (shiftIn_fits h.acc_lt hv hn7 h.bpp_le).2
    simpa using shiftIn_n hv hn7 h.bpp_le

theorem State.Inv.afterTakePal (h : s.Inv) : (takePalWord s).Inv := by
  unfold takePalWord
  split
  · rename_i hv
    exact { h with pal_taken := of_decide_eq_true hv }
  · exact h

theorem State.Inv.afterTakeByte (h : s.Inv) : (takeByte s).Inv := by
  unfold takeByte
  split
  · rename_i hv
    exact { h with byte_taken := of_decide_eq_true hv }
  · exact h

/-- The reset state with any later events (R79, R80). -/
theorem reset_inv (l : List HostEvent) : ({ State.reset with input := l } : State).Inv := by
  constructor <;> simp [State.reset]

/-- Every command keeps the invariant (R19). -/
theorem Effect.inv {i : Instr} {t : State} (he : Effect s i t) (h : s.Inv) : t.Inv := by
  cases he with
  | nop => exact h
  | packc r g b => exact h.emitPal _
  | setw w idle => exact h.withWidth idle w
  | seth v idle => exact h.withHeight idle v
  | startEmpty b _ inRange _ => exact h.startEmpty inRange
  | startFrame b _ inRange nonempty => exact h.startFrame inRange nonempty
  | push p active => exact h.push active p
  | refused i x _ => exact h.setErr x

theorem executeWord_inv {w : Word} {t : State} (hw : executeWord w s = .next t) (h : s.Inv) : t.Inv := by
  rcases executeWord_cases hw with ⟨i, -, he⟩ | rfl
  · exact he.inv h
  · exact h.setErr .ill

/-- Settles O31: one rule per operation of the state, put together along the host's event. -/
theorem everyStepKeepsTheInvariant : Obligations.EveryStepKeepsTheInvariant := by
  intro s t h hstep
  rcases step_cases hstep with ⟨-, rfl⟩ | ⟨w, rest, -, hw⟩ | ⟨rest, -, rfl⟩ | ⟨rest, -, rfl⟩ | ⟨rest, -, rfl⟩
  · exact h
  · exact executeWord_inv hw (h.withInput rest)
  · exact reset_inv rest
  · exact (h.withInput rest).afterTakePal
  · exact (h.withInput rest).afterTakeByte

end Sys2Proof.Machine
end

section
/-! SUPPORT. What a command may write, and which commands move ACTIVE and DONE. -/

namespace Sys2Proof.Machine

variable {s t : State} {i : Instr}

/-- No command clears a flag or takes an item out of a log (R20, R22, R23). -/
theorem Effect.grows (he : Effect s i t) : s.err &&& t.err = s.err ∧ s.palq <+: t.palq ∧ s.byteq <+: t.byteq := by
  cases he with
  | nop => simp
  | packc r g b => simp
  | setw w _ => simp
  | seth v _ => simp
  | startEmpty b _ _ _ => simp
  | startFrame b _ _ _ => simp
  | push p _ => simpa using s.err_and_flagIdx p
  | refused i x _ => simp [err_and_or_same]

/-- ACTIVE rises at the START of a frame that has a pixel (R17, R58). -/
theorem Effect.active_rises (he : Effect s i t) (hs : s.active = false) (ht : t.active = true) :
    ∃ b, i = .start b ∧ bppInRange b = true ∧ s.frameIsEmpty = false := by
  cases he with
  | startFrame b _ inRange nonempty => exact ⟨b, rfl, inRange, nonempty⟩
  | startEmpty b _ _ _ => cases ht
  | push p active => simp [hs] at active
  | nop | packc | setw | seth | refused => simp [hs] at ht

/-- ACTIVE falls at the PUSH that moves the position below the last row (R17, R59). -/
theorem Effect.active_falls (he : Effect s i t) (hs : s.active = true) (ht : t.active = false) :
    ∃ p, i = .push p ∧ s.nextY = s.height := by
  cases he with
  | push p _ => exact ⟨p, rfl, by simpa [hs] using ht⟩
  | startEmpty b idle _ _ | startFrame b idle _ _ => simp [hs] at idle
  | nop | packc | setw | seth | refused => simp [hs] at ht

/-- DONE rises with ACTIVE's fall, or at the START of a frame that has no pixel (R18, R58, R59). -/
theorem Effect.done_rises (he : Effect s i t) (hs : s.done = false) (ht : t.done = true) :
    (∃ p, i = .push p ∧ s.active = true ∧ s.nextY = s.height) ∨
    (∃ b, i = .start b ∧ s.active = false ∧ bppInRange b = true ∧ s.frameIsEmpty = true) := by
  cases he with
  | push p active => exact .inl ⟨p, rfl, active, by simpa [hs] using ht⟩
  | startEmpty b idle inRange empty => exact .inr ⟨b, rfl, idle, inRange, empty⟩
  | startFrame b _ _ _ => cases ht
  | nop | packc | setw | seth | refused => simp [hs] at ht

/-- A step that changes ACTIVE or DONE is a reset, which clears both, or a legal command. -/
theorem step_of_status_changed (h : step s = .next t) (hne : t.active ≠ s.active ∨ t.done ≠ s.done) :
    ((∃ rest, s.input = .reset :: rest) ∧ t.active = false ∧ t.done = false) ∨
    ∃ w rest i, s.input = .command w :: rest ∧ decode w = .legal i ∧ Effect { s with input := rest } i t := by
  rcases step_cases h with ⟨-, rfl⟩ | ⟨w, rest, hin, hw⟩ | ⟨rest, hin, rfl⟩ | ⟨rest, -, rfl⟩ | ⟨rest, -, rfl⟩
  · simp at hne
  · rcases executeWord_cases hw with ⟨i, hd, he⟩ | rfl
    · exact .inr ⟨w, rest, i, hin, hd, he⟩
    · simp at hne
  · exact .inl ⟨⟨rest, hin⟩, rfl, rfl⟩
  · simp at hne
  · simp at hne

/-- Where the frame ends, in a state with the invariant (R13, R14). -/
theorem State.Inv.nextY_eq_height_iff (h : s.Inv) (ha : s.active = true) :
    s.nextY = s.height ↔ s.xpos.toNat + 1 = s.width.toNat ∧ s.ypos.toNat + 1 = s.height.toNat := by
  obtain ⟨-, -, -, hx, hy, -⟩ := h.active_geometry ha
  exact Machine.nextY_eq_height_iff hx hy

/-! ## The statements on flags, status and what a command writes -/

/-- Settles O32: no event but a reset clears a flag or shortens a log. -/
theorem flagsAndLogsOnlyGrow : Obligations.FlagsAndLogsOnlyGrow := by
  intro s t hstep hreset
  rcases step_cases hstep with ⟨-, rfl⟩ | ⟨w, rest, -, hw⟩ | ⟨rest, hin, -⟩ | ⟨rest, -, rfl⟩ | ⟨rest, -, rfl⟩
  · simp
  · rcases executeWord_cases hw with ⟨i, -, he⟩ | rfl
    · exact he.grows
    · simp [err_and_or_same]
  · exact absurd hin (hreset rest)
  · simp
  · simp

/-- Settles O33, command by command. -/
theorem onlyTheListedCommandsWrite : Obligations.OnlyTheListedCommandsWrite := by
  intro i s t h
  cases exec_effect h with
  | nop => simp
  | packc r g b => simp
  | setw w _ => simp
  | seth v _ => simp
  | startEmpty b _ _ _ => simp
  | startFrame b _ _ _ => simp
  | push p _ => simp
  | refused i x notTransparent => cases i <;> simp_all [Instr.isTransparent]

/-- Settles O35, by the commands that move ACTIVE. -/
theorem activeSpansStartToLastPixel : Obligations.ActiveSpansStartToLastPixel := by
  intro s t hinv hstep
  refine ⟨fun hs ht => ?_, fun hs ht => ?_⟩
  · rcases step_of_status_changed hstep (.inl (by simp [hs, ht])) with ⟨-, hfall, -⟩ | ⟨w, rest, i, hin, hd, he⟩
    · simp [hfall] at ht
    · obtain ⟨b, rfl, inRange, nonempty⟩ := he.active_rises hs ht
      obtain ⟨hb1, hb8⟩ := (bppInRange_iff b).1 inRange
      obtain ⟨hw, hh⟩ := s.frameIsEmpty_eq_false_iff.1 nonempty
      exact ⟨w, b, rest, hin, hd, hb1, hb8, hw, hh⟩
  · rcases step_of_status_changed hstep (.inl (by simp [hs, ht])) with ⟨hreset, -, -⟩ | ⟨w, rest, i, hin, hd, he⟩
    · exact .inl hreset
    · obtain ⟨p, rfl, hlast⟩ := he.active_falls hs ht
      obtain ⟨hx, hy⟩ := (hinv.nextY_eq_height_iff hs).1 hlast
      exact .inr ⟨w, p, rest, hin, hd, hx, hy⟩

/-- Settles O36, by the commands that raise DONE. -/
theorem doneRisesOnlyWhenAFrameCompletes : Obligations.DoneRisesOnlyWhenAFrameCompletes := by
  intro s t hinv hstep hs ht
  rcases step_of_status_changed hstep (.inr (by simp [hs, ht])) with ⟨-, -, hfall⟩ | ⟨w, rest, i, hin, hd, he⟩
  · simp [hfall] at ht
  · refine ⟨w, rest, hin, ?_⟩
    rcases he.done_rises hs ht with ⟨p, rfl, active, hlast⟩ | ⟨b, rfl, idle, inRange, empty⟩
    · obtain ⟨hx, hy⟩ := (hinv.nextY_eq_height_iff active).1 hlast
      exact .inl ⟨p, hd, active, hx, hy⟩
    · obtain ⟨hb1, hb8⟩ := (bppInRange_iff b).1 inRange
      exact .inr ⟨b, hd, idle, hb1, hb8, s.frameIsEmpty_iff.1 empty⟩

/-- Settles O11: the three parts of SR do not overlap. -/
theorem statusWordLayout : Obligations.StatusWordLayout := by
  intro s
  have ha := s.active.toNat_lt
  have hd := s.done.toNat_lt
  have he := s.err.isLt
  refine ⟨?_, ?_, ?_, ?_, ?_, ?_, ?_, rfl, rfl, rfl, rfl, rfl, rfl, rfl⟩
  · simp (disch := omega) [State.sr, Nat.shiftLeft_eq, Nat.mod_eq_of_lt]
  all_goals simp [State.sr, State.errParam, State.errIdx, State.errSeq, State.errIll]

/-- Settles O41: with an empty list of events `stepInput` takes its first branch. -/
theorem theBlockWaitsWithoutInput : Obligations.TheBlockWaitsWithoutInput := by
  intro s hin
  rw [step, stepInput, hin]

end Sys2Proof.Machine
end

section
/-! SUPPORT. The fields of an encoded command, and the command back from its word (R40, R45). -/

namespace Sys2Proof

variable (op r g b v : BitVec 8) (d : Dim)

@[simp] theorem opcodeField_formatC : opcodeField (formatC op r g b) = op := by
  ext i hi; interval_cases i <;> simp [opcodeField, formatC]
@[simp] theorem fieldR_formatC : fieldR (formatC op r g b) = r := by
  ext i hi; interval_cases i <;> simp [fieldR, formatC]
@[simp] theorem fieldG_formatC : fieldG (formatC op r g b) = g := by
  ext i hi; interval_cases i <;> simp [fieldG, formatC]
@[simp] theorem imm8_formatC : imm8 (formatC op r g b) = b := by
  ext i hi; interval_cases i <;> simp [imm8, formatC]

@[simp] theorem opcodeField_formatD : opcodeField (formatD op d) = op := by
  ext i hi; interval_cases i <;> simp [opcodeField, formatD]
@[simp] theorem fieldR_formatD : fieldR (formatD op d) = 0 := by
  ext i hi; interval_cases i <;> simp [fieldR, formatD]
@[simp] theorem imm16_formatD : imm16 (formatD op d) = d := by
  ext i hi; interval_cases i <;> simp [imm16, formatD]

@[simp] theorem opcodeField_formatB : opcodeField (formatB op v) = op := by
  ext i hi; interval_cases i <;> simp [opcodeField, formatB]
@[simp] theorem reservedB_formatB : reservedB (formatB op v) = 0 := by
  ext i hi; interval_cases i <;> simp [reservedB, formatB]
@[simp] theorem imm8_formatB : imm8 (formatB op v) = v := by
  ext i hi; interval_cases i <;> simp [imm8, formatB]

@[simp] theorem decode_encode (i : Instr) : decode (encode i) = .legal i := by
  cases i with
  | nop => decide
  | packc r g b => simp [encode, decode]
  | setw w => simp [encode, decode]
  | seth h => simp [encode, decode]
  | start b => simp [encode, decode]
  | push p => simp [encode, decode]

end Sys2Proof
end

section
/-! SUPPORT. A sequence of commands with NOP and PACKC anywhere in it runs as it does without them, but for PALQ. -/

namespace Sys2Proof.Machine

/-- The first command of an encoded sequence, then the others on what it left (R36). -/
theorem executeWords_encode_cons {i : Instr} {is : List Instr} {s t : State} (h : exec i s = .next t) :
    executeWords ((i :: is).map encode) s = executeWords (is.map encode) t :=
  executeWords_cons ((executeWord_legal (decode_encode i) s).trans h)

/-- The state with another PALQ. -/
def State.withPalq (q : List PalWord) (s : State) : State := { s with palq := q }

variable {i : Instr} {s t : State}

theorem State.flagIdx_withPalq (p : Index) (q : List PalWord) :
    (s.withPalq q).flagIdx p = (s.flagIdx p).withPalq q := by
  rw [State.flagIdx, State.flagIdx, apply_ite (State.withPalq q)]
  rfl

theorem State.advance_withPalq (d : Shifted) (q : List PalWord) :
    (s.withPalq q).advance d = (s.advance d).withPalq q := by
  rw [State.advance, State.advance, apply_ite (State.withPalq q)]
  rfl

/-- A command that is neither NOP nor PACKC does not see PALQ (R9, R55). -/
theorem exec_withPalq (hi : i.isTransparent = false) (h : exec i s = .next t) (q : List PalWord) :
    exec i (s.withPalq q) = .next (t.withPalq q) := by
  cases i with
  | nop | packc => cases hi
  | setw w =>
    rcases Bool.eq_false_or_eq_true s.active with ha | ha
    · rw [exec_setw_active ha] at h; cases h; exact exec_setw_active (s := s.withPalq q) ha w
    · rw [exec_setw_idle ha] at h; cases h; exact exec_setw_idle (s := s.withPalq q) ha w
  | seth v =>
    rcases Bool.eq_false_or_eq_true s.active with ha | ha
    · rw [exec_seth_active ha] at h; cases h; exact exec_seth_active (s := s.withPalq q) ha v
    · rw [exec_seth_idle ha] at h; cases h; exact exec_seth_idle (s := s.withPalq q) ha v
  | start b =>
    rcases Bool.eq_false_or_eq_true s.active with ha | ha
    · rw [exec_start_active ha] at h; cases h; exact exec_start_active (s := s.withPalq q) ha b
    · rcases Bool.eq_false_or_eq_true (bppInRange b) with hb | hb
      · rcases Bool.eq_false_or_eq_true s.frameIsEmpty with he | he
        · rw [exec_start_empty ha hb he] at h; cases h; exact exec_start_empty (s := s.withPalq q) ha hb he
        · rw [exec_start_frame ha hb he] at h; cases h; exact exec_start_frame (s := s.withPalq q) ha hb he
      · rw [exec_start_outOfRange ha hb] at h; cases h; exact exec_start_outOfRange (s := s.withPalq q) ha hb
  | push p =>
    rcases Bool.eq_false_or_eq_true s.active with ha | ha
    · rw [exec_push_active ha] at h
      cases h
      rw [exec_push_active (s := s.withPalq q) ha, State.flagIdx_withPalq, State.advance_withPalq]
      rfl
    · rw [exec_push_idle ha] at h; cases h; exact exec_push_idle (s := s.withPalq q) ha p

/-- Without its NOP and PACKC commands a sequence ends in the same state, up to PALQ (R61). -/
theorem executeWords_skip_transparent {cmds : List Instr}
    (h : executeWords ((cmds.filter fun i => !i.isTransparent).map encode) s = .next t) (q : List PalWord) :
    ∃ q', executeWords (cmds.map encode) (s.withPalq q) = .next (t.withPalq q') := by
  induction cmds generalizing s q with
  | nil =>
    cases h
    exact ⟨q, rfl⟩
  | cons i is ih =>
    cases hi : i.isTransparent with
    | false =>
      obtain ⟨u, hu⟩ := exec_answers_next i s
      rw [List.filter_cons_of_pos (by simp [hi]), executeWords_encode_cons hu] at h
      rw [executeWords_encode_cons (exec_withPalq hi hu q)]
      exact ih h q
    | true =>
      rw [List.filter_cons_of_neg (by simp [hi])] at h
      cases i with
      | nop => exact ih h q
      | packc r g b =>
        rw [executeWords_encode_cons (t := s.withPalq (q ++ [packColor r g b])) rfl]
        exact ih h _
      | setw | seth | start | push => cases hi

end Sys2Proof.Machine
end

section
/-! SUPPORT. Where a frame stands after its first pixels (spec/41_bit_packer.md section 6). -/

namespace Sys2Proof.Machine

/-- `InFrame s b w h k m`: in `m` the frame of `w` by `h` pixels of `b` bits, begun from `s`, waits for its pixel number `k`. -/
structure InFrame (s : State) (b : Nat) (w h : Dim) (k : Nat) (m : State) : Prop where
  active : m.active = true
  done : m.done = false
  bpp : m.bpp.toNat = b
  width : m.width = w
  height : m.height = h
  column : m.xpos.toNat < w.toNat
  row : m.ypos.toNat < h.toNat
  position : m.ypos.toNat * w.toNat + m.xpos.toNat = k
  phase : m.nacc.toNat = k * b % 8
  emitted : m.byteq.length = s.byteq.length + k * b / 8

/-- `AfterPixels s b w h k m`: in `m` START and `k` pixels of the frame have run; the frame is complete when it has no more. -/
structure AfterPixels (s : State) (b : Nat) (w h : Dim) (k : Nat) (m : State) : Prop where
  err : m.err = s.err
  inside : k < w.toNat * h.toNat → InFrame s b w h k m
  complete : k = w.toNat * h.toNat → m.active = false ∧ m.done = true

variable {s m : State} {b k : Nat} {w h : Dim}

theorem InFrame.xpos_eq (f : InFrame s b w h k m) : m.xpos.toNat = k % w.toNat := by
  rw [← f.position, Nat.mul_add_mod_self_right, Nat.mod_eq_of_lt f.column]

theorem InFrame.ypos_eq (f : InFrame s b w h k m) : m.ypos.toNat = k / w.toNat := by
  rw [← f.position, Nat.mul_comm, Nat.mul_add_div (by have := f.column; omega), Nat.div_eq_of_lt f.column, Nat.add_zero]

/-- The bits of one more pixel: those waiting and the new ones fill bytes, the rest waits. -/
theorem add_pixel_bits (b k : Nat) :
    (k * b % 8 + b) % 8 = (k + 1) * b % 8 ∧
    k * b / 8 + (k * b % 8 + b) / 8 = (k + 1) * b / 8 := by
  rw [Nat.succ_mul]
  omega

/-- The pixel after which the position leaves the frame is the last in row-major order. -/
theorem State.nextY_eq_height_iff_last (hx : m.xpos.toNat < m.width.toNat) (hy : m.ypos.toNat < m.height.toNat) :
    m.nextY = m.height ↔ m.ypos.toNat * m.width.toNat + m.xpos.toNat + 1 = m.width.toNat * m.height.toNat := by
  rw [← State.next_position hx hy]
  constructor
  · intro hlast
    rw [hlast, State.nextX_eq_zero hx hy hlast, Nat.mul_comm]
    rfl
  · intro hend
    by_contra hlast
    have hrow : (m.nextY.toNat + 1) * m.width.toNat ≤ m.height.toNat * m.width.toNat :=
      Nat.mul_le_mul_right _ (State.nextY_lt hx hy hlast)
    have hcol := State.nextX_lt hx
    rw [Nat.succ_mul, Nat.mul_comm m.height.toNat] at hrow
    omega

/-- One PUSH of an index in range takes the frame one pixel on (R59). -/
theorem AfterPixels.push (a : AfterPixels s b w h k m) (hk : k < w.toNat * h.toNat) (hb : b ≤ 8) {p : Index}
    (hp : p.toNat < 2 ^ b) : ∃ m', exec (.push p) m = .next m' ∧ AfterPixels s b w h (k + 1) m' := by
  obtain ⟨ha, hdone, rfl, rfl, rfl, hx, hy, rfl, hphase, hemitted⟩ := a.inside hk
  have hv := maskIdx_lt m.bpp.toNat p
  have hn : m.nacc.toNat ≤ 7 := by have := m.nacc.isLt; omega
  have hlast := State.nextY_eq_height_iff_last hx hy
  obtain ⟨hwaiting, hbytes⟩ := add_pixel_bits m.bpp.toNat (m.ypos.toNat * m.width.toNat + m.xpos.toNat)
  refine ⟨m.advance (shiftIn m.acc.toNat m.nacc.toNat m.bpp.toNat (maskIdx m.bpp.toNat p)), ?_, ?_⟩
  · rw [exec_push_active ha, State.flagIdx_of_lt hp]
  refine ⟨by simpa using a.err, fun hin => ?_, fun hend => by simp [hlast.2 hend]⟩
  have hne : m.nextY ≠ m.height := fun e => by have := hlast.1 e; omega
  constructor
  case active => simp [hne, ha]
  case done => simp [hne, hdone]
  case bpp => simp
  case width => simp
  case height => simp
  case column => simpa using State.nextX_lt hx
  case row => simpa using State.nextY_lt hx hy hne
  case position => simpa using State.next_position hx hy
  case phase =>
    rw [State.advance_nacc, if_neg hne, shiftIn_n hv hn hb, hphase, hwaiting, BitVec.toNat_ofNat]
    exact Nat.mod_mod _ 8
  case emitted =>
    rw [State.advance_byteq, if_neg hne, List.length_append, shiftIn_bytes_length hv hn hb, hphase, hemitted, ← hbytes,
      Nat.add_assoc]

/-- An index list takes the frame as many pixels on. -/
theorem AfterPixels.pushes {p : List Index} (a : AfterPixels s b w h k m) (hk : k + p.length ≤ w.toNat * h.toNat)
    (hb : b ≤ 8) (hp : ∀ x ∈ p, x.toNat < 2 ^ b) :
    ∃ m', executeWords ((p.map Instr.push).map encode) m = .next m' ∧ AfterPixels s b w h (k + p.length) m' := by
  induction p generalizing k m with
  | nil => exact ⟨m, rfl, a⟩
  | cons x p ih =>
    rw [List.length_cons] at hk
    obtain ⟨u, hu, au⟩ := a.push (by omega) hb (hp x List.mem_cons_self)
    obtain ⟨m', hm', am'⟩ := ih au (by omega) fun y hy => hp y (List.mem_cons_of_mem x hy)
    refine ⟨m', ?_, ?_⟩
    · rw [List.map_cons, executeWords_encode_cons hu, hm']
    · rwa [List.length_cons, Nat.add_comm p.length, ← Nat.add_assoc]

/-- START begins the frame at its first pixel, or completes one that has no pixel (R58). -/
theorem exec_start_afterPixels {c : BppField} (idle : s.active = false) (hc1 : 1 ≤ c.toNat) (hc8 : c.toNat ≤ 8) :
    ∃ m, exec (.start c) { s with width := w, height := h } = .next m ∧ AfterPixels s c.toNat w h 0 m := by
  have hin : bppInRange c = true := (bppInRange_iff c).2 ⟨hc1, hc8⟩
  cases hempty : ({ s with width := w, height := h } : State).frameIsEmpty with
  | true =>
    refine ⟨_, exec_start_empty (s := { s with width := w, height := h }) idle hin hempty, rfl, fun hpos => ?_,
      fun _ => ⟨rfl, rfl⟩⟩
    rcases (State.frameIsEmpty_iff _).1 hempty with rfl | rfl <;> simp at hpos
  | false =>
    obtain ⟨hw, hh⟩ := (State.frameIsEmpty_eq_false_iff _).1 hempty
    have hw1 := one_le_toNat_iff.2 hw
    have hh1 := one_le_toNat_iff.2 hh
    refine ⟨_, exec_start_frame (s := { s with width := w, height := h }) idle hin hempty, rfl, fun _ => ?_,
      fun h0 => ?_⟩
    · exact ⟨rfl, rfl, bppRegister_toNat hin, rfl, rfl, hw1, hh1, by simp, by simp, by simp⟩
    · exact absurd h0 (Nat.mul_pos hw1 hh1).ne

/-- The commands of a frame up to some pixel, from an idle block (R61). -/
theorem executeWords_frameCommands {c : BppField} {p : List Index} (idle : s.active = false) (hc1 : 1 ≤ c.toNat)
    (hc8 : c.toNat ≤ 8) (hlen : p.length ≤ w.toNat * h.toNat) (hp : ∀ x ∈ p, x.toNat < 2 ^ c.toNat) :
    ∃ m, executeWords ((frameCommands c w h p).map encode) s = .next m ∧ AfterPixels s c.toNat w h p.length m := by
  obtain ⟨u, hu, au⟩ := exec_start_afterPixels (w := w) (h := h) idle hc1 hc8
  obtain ⟨m, hm, am⟩ := au.pushes (by omega) hc8 hp
  refine ⟨m, ?_, by simpa using am⟩
  rw [frameCommands, executeWords_encode_cons (exec_setw_idle idle w),
    executeWords_encode_cons (exec_seth_idle (by exact idle) h), executeWords_encode_cons hu, hm]

/-- The front parts of a frame's commands: those before START, or START with some of the pixels. -/
theorem append_eq_frameCommands {c : BppField} {p : List Index} {l r : List Instr}
    (e : l ++ r = frameCommands c w h p) :
    (l = [] ∨ l = [.setw w] ∨ l = [.setw w, .seth h]) ∨ ∃ p₁ p₂, p = p₁ ++ p₂ ∧ l = frameCommands c w h p₁ := by
  rcases l with _ | ⟨i, _ | ⟨j, _ | ⟨k, l⟩⟩⟩
  · exact .inl (.inl rfl)
  · simp_all [frameCommands]
  · simp_all [frameCommands]
  · simp only [frameCommands, List.cons_append, List.cons.injEq] at e
    obtain ⟨rfl, rfl, rfl, e⟩ := e
    obtain ⟨p₁, p₂, rfl, rfl, -⟩ := List.append_eq_map_iff.1 e
    exact .inr ⟨p₁, p₂, rfl, rfl⟩

/-- Before START the dimensions are all that changes (R56, R57). -/
theorem executeWords_beforeStart {l : List Instr} (idle : s.active = false)
    (hl : l = [] ∨ l = [.setw w] ∨ l = [.setw w, .seth h]) :
    ∃ w' h', executeWords (l.map encode) s = .next { s with width := w', height := h' } := by
  rcases hl with rfl | rfl | rfl
  · exact ⟨s.width, s.height, rfl⟩
  · refine ⟨w, s.height, ?_⟩
    rw [executeWords_encode_cons (exec_setw_idle idle w)]
    rfl
  · refine ⟨w, h, ?_⟩
    rw [executeWords_encode_cons (exec_setw_idle idle w), executeWords_encode_cons (exec_seth_idle (by exact idle) h)]
    rfl

/-- The number of pixels among the commands of a frame. -/
theorem length_filter_isPush_frameCommands (c : BppField) (p : List Index) :
    ((frameCommands c w h p).filter Instr.isPush).length = p.length := by
  have hpush : (p.map Instr.push).filter Instr.isPush = p.map Instr.push := by
    rw [List.filter_eq_self]
    simp [Instr.isPush]
  simp [frameCommands, Instr.isPush, hpush]

/-- Leaving out NOP and PACKC leaves out no PUSH. -/
theorem filter_isPush_filter_not_transparent (cmds : List Instr) :
    (cmds.filter fun i => !i.isTransparent).filter Instr.isPush = cmds.filter Instr.isPush := by
  rw [List.filter_filter]
  congr 1
  funext i
  cases i <;> rfl

end Sys2Proof.Machine
end

section
/-! The statement on a frame's progress. -/

namespace Sys2Proof.Machine

/-- Settles O49: NOP and PACKC are skipped, and the rest is a front part of the frame's commands. -/
theorem frameProgressAfterEveryPixel : Obligations.FrameProgressAfterEveryPixel := by
  intro s b w h p pre post idle hb1 hb8 hlen hp hcmds
  rw [List.filter_append] at hcmds
  have hpushes := filter_isPush_filter_not_transparent pre
  have hstart : Instr.start b ∈ pre.filter (fun i => !i.isTransparent) ↔ Instr.start b ∈ pre := by
    simp [Instr.isTransparent]
  have hskip {m : State} := @executeWords_skip_transparent s m pre
  rcases append_eq_frameCommands hcmds with hfront | ⟨p₁, p₂, rfl, hfront⟩
  · have hno : Instr.start b ∉ pre := by
      rw [← hstart]
      rcases hfront with e | e | e <;> simp [e]
    obtain ⟨w', h', hm⟩ := executeWords_beforeStart idle hfront
    obtain ⟨q, hq⟩ := hskip hm s.palq
    exact ⟨_, hq, rfl, fun _ => ⟨idle, rfl, rfl⟩, fun hin => absurd hin hno, fun hin => absurd hin hno⟩
  · rw [hfront] at hpushes hstart hskip
    have hk : (pre.filter Instr.isPush).length = p₁.length := by
      rw [← hpushes, length_filter_isPush_frameCommands]
    have hin : Instr.start b ∈ pre := hstart.1 (by simp [frameCommands])
    obtain ⟨m, hm, a⟩ := executeWords_frameCommands (p := p₁) idle hb1 hb8 (by rw [← hlen]; simp)
      fun x hx => hp x (List.mem_append_left p₂ hx)
    obtain ⟨q, hq⟩ := hskip hm s.palq
    simp only [hk]
    refine ⟨m.withPalq q, hq, a.err, fun hno => absurd hin hno, fun _ hlt => ?_, fun _ hend => a.complete hend⟩
    have f := a.inside hlt
    exact ⟨f.active, f.done, f.xpos_eq, f.ypos_eq, f.phase, f.emitted⟩

end Sys2Proof.Machine
end

section
/-! SUPPORT. What a step does with the host's next event, and what a command does not see or write of the ports. -/

namespace Sys2Proof.Machine

variable {s t : State} {w : Word}

/-- A step handles the host's next event on the state that no longer holds it (R26 to R28, R80). -/
theorem step_of_input_cons {e : HostEvent} {rest : List HostEvent} (hin : s.input = e :: rest) :
    step s = handleEvent e { s with input := rest } := by
  rw [step, stepInput, hin]

theorem step_of_command {rest : List HostEvent} (hin : s.input = .command w :: rest) :
    step s = executeWord w { s with input := rest } := step_of_input_cons hin

theorem core_run_succ {n : Nat} (h : step s = .next t) : core.run (n + 1) s = core.run n t := by
  simp only [Host.Core.run, core, h]

theorem instr?_eq_some_iff {d : Decoded} {i : Instr} : d.instr? = some i ↔ d = .legal i := by
  cases d with
  | legal j => simp [Decoded.instr?]
  | illegal why cmd => simp [Decoded.instr?]

/-- No command writes what the ports delivered or what the host does next (R9). -/
theorem Effect.ports {i : Instr} (he : Effect s i t) :
    t.palTaken = s.palTaken ∧ t.byteTaken = s.byteTaken ∧ t.input = s.input := by
  cases he with
  | nop | setw | seth | refused | packc | startEmpty | startFrame => exact ⟨rfl, rfl, rfl⟩
  | push p _ => simp

theorem executeWord_ports (h : executeWord w s = .next t) :
    t.palTaken = s.palTaken ∧ t.byteTaken = s.byteTaken ∧ t.input = s.input := by
  rcases executeWord_cases h with ⟨i, -, he⟩ | rfl
  · exact he.ports
  · exact ⟨rfl, rfl, rfl⟩

/-- The state with another list of what the host does next. -/
def State.withInput (l : List HostEvent) (s : State) : State := { s with input := l }

theorem State.withInput_of_eq {l : List HostEvent} (h : s.input = l) : s.withInput l = s := by
  subst h
  rfl

theorem State.flagIdx_withInput (p : Index) (l : List HostEvent) :
    (s.withInput l).flagIdx p = (s.flagIdx p).withInput l := by
  rw [State.flagIdx, State.flagIdx, apply_ite (State.withInput l)]
  rfl

theorem State.advance_withInput (d : Shifted) (l : List HostEvent) :
    (s.withInput l).advance d = (s.advance d).withInput l := by
  rw [State.advance, State.advance, apply_ite (State.withInput l)]
  rfl

/-- A command does not see what the host does next (R26, R36). -/
theorem exec_withInput {i : Instr} (h : exec i s = .next t) (l : List HostEvent) :
    exec i (s.withInput l) = .next (t.withInput l) := by
  rcases exec_cases h with
    ⟨rfl, rfl⟩ | ⟨r, g, b, rfl, rfl⟩ | ⟨v, rfl, hw⟩ | ⟨v, rfl, hv⟩ | ⟨b, rfl, hb⟩ | ⟨p, rfl, hp⟩
  · rfl
  · rfl
  · rcases hw with ⟨active, rfl⟩ | ⟨idle, rfl⟩
    · exact exec_setw_active (s := s.withInput l) active v
    · exact exec_setw_idle (s := s.withInput l) idle v
  · rcases hv with ⟨active, rfl⟩ | ⟨idle, rfl⟩
    · exact exec_seth_active (s := s.withInput l) active v
    · exact exec_seth_idle (s := s.withInput l) idle v
  · rcases hb with ⟨active, rfl⟩ | ⟨idle, out, rfl⟩ | ⟨idle, inRange, empty, rfl⟩ | ⟨idle, inRange, nonempty, rfl⟩
    · exact exec_start_active (s := s.withInput l) active b
    · exact exec_start_outOfRange (s := s.withInput l) idle out
    · exact exec_start_empty (s := s.withInput l) idle inRange empty
    · exact exec_start_frame (s := s.withInput l) idle inRange nonempty
  · rcases hp with ⟨idle, rfl⟩ | ⟨active, rfl⟩
    · exact exec_push_idle (s := s.withInput l) idle p
    · rw [exec_push_active (s := s.withInput l) active, State.flagIdx_withInput, State.advance_withInput]
      rfl

theorem executeWord_withInput (h : executeWord w s = .next t) (l : List HostEvent) :
    executeWord w (s.withInput l) = .next (t.withInput l) := by
  cases hd : decode w with
  | legal i =>
    rw [executeWord_legal hd] at h ⊢
    exact exec_withInput h l
  | illegal why cmd =>
    rw [executeWord, hd] at h ⊢
    cases h
    rfl

/-! ## The statements on steps and runs -/

/-- Settles O39: the word is the host's next event, and it decodes to a command. -/
theorem stepRunsTheDecodedCommand : Obligations.StepRunsTheDecodedCommand := by
  refine ⟨fun s w i rest hin hd => ?_, fun s nbits w i hd => ?_⟩
  · rw [step_of_command hin, executeWord_legal hd]
  · rw [step_of_command (s := s.withFetchWord nbits w) rfl, executeWord_legal (instr?_eq_some_iff.1 hd)]
    rfl

/-- Settles O40, by induction on the words: the first one runs alike with and without the other words in the input. -/
theorem runIsTheFoldOfTheCommands : Obligations.RunIsTheFoldOfTheCommands := by
  intro cmds s rest hin
  induction cmds generalizing s with
  | nil => exact congrArg Host.Outcome.next (State.withInput_of_eq hin).symm
  | cons w ws ih =>
    obtain ⟨u, hu⟩ := executeWord_answers_next w (s.withInput rest)
    have hrest : u.input = rest := (executeWord_ports hu).2.2
    have hstep : step s = .next (u.withInput (ws.map .command ++ rest)) :=
      (step_of_command hin).trans (executeWord_withInput hu _)
    have hfold : executeWords (w :: ws) (s.withInput rest) = executeWords ws (u.withInput rest) := by
      rw [executeWords_cons hu, State.withInput_of_eq hrest]
    exact (core_run_succ hstep).trans ((ih _ rfl).trans hfold.symm)

end Sys2Proof.Machine
end

section
/-! SUPPORT. The output ports: the next item to deliver, and the delivered part of a log that grows. -/

namespace Sys2Proof.Machine

variable {s t : State}

theorem take_succ_of_getElem? {α : Type} {l : List α} {n : Nat} {v : α} (h : l[n]? = some v) :
    l.take (n + 1) = l.take n ++ [v] := by
  rw [List.take_add_one, h, Option.toList_some]

/-- A count that goes on by at most one item of a log that only grows: its front part stays, or gains the next item. -/
theorem take_of_prefix {α : Type} {l l' : List α} {n n' : Nat} (hle : n ≤ l.length) (hl : l <+: l')
    (hn : n' = n ∨ n < l.length ∧ n' = n + 1) :
    l'.take n' = l.take n ∨ ∃ v, l[n]? = some v ∧ l'.take n' = l.take n ++ [v] := by
  obtain ⟨new, rfl⟩ := hl
  rcases hn with rfl | ⟨hlt, rfl⟩
  · exact .inl (List.take_append_of_le_length hle)
  · have hv := List.getElem?_eq_getElem hlt
    refine .inr ⟨_, hv, ?_⟩
    rw [List.take_append_of_le_length hlt, take_succ_of_getElem? hv]

/-! ## The next item of each port -/

theorem State.palValid_iff : s.palValid = true ↔ s.palTaken < s.palq.length := decide_eq_true_iff

theorem State.byteValid_iff : s.byteValid = true ↔ s.byteTaken < s.byteq.length := decide_eq_true_iff

/-- `pal_valid` is 1 exactly while a word waits (R27). -/
theorem State.palValid_eq_isSome : s.palValid = s.palData.isSome := by
  rw [Bool.eq_iff_iff, palValid_iff, palData, isSome_getElem?]

/-- `byte_valid` is 1 exactly while a byte waits (R28). -/
theorem State.byteValid_eq_isSome : s.byteValid = s.byteData.isSome := by
  rw [Bool.eq_iff_iff, byteValid_iff, byteData, isSome_getElem?]

theorem takePalWord_of_palData_isSome (h : s.palData.isSome = true) :
    takePalWord s = { s with palTaken := s.palTaken + 1 } := by
  rw [takePalWord, if_pos (State.palValid_eq_isSome.trans h)]

theorem takePalWord_of_palData_none (h : s.palData = none) : takePalWord s = s := by
  rw [takePalWord, State.palValid_eq_isSome, h]
  rfl

theorem takeByte_of_byteData_isSome (h : s.byteData.isSome = true) :
    takeByte s = { s with byteTaken := s.byteTaken + 1 } := by
  rw [takeByte, if_pos (State.byteValid_eq_isSome.trans h)]

theorem takeByte_of_byteData_none (h : s.byteData = none) : takeByte s = s := by
  rw [takeByte, State.byteValid_eq_isSome, h]
  rfl

/-- What a step that is no reset adds to the delivered counts: at most one item at each port, and only a waiting one. -/
theorem step_taken (hstep : step s = .next t) (hreset : ∀ rest, s.input ≠ .reset :: rest) :
    (t.palTaken = s.palTaken ∨ s.palTaken < s.palq.length ∧ t.palTaken = s.palTaken + 1) ∧
    (t.byteTaken = s.byteTaken ∨ s.byteTaken < s.byteq.length ∧ t.byteTaken = s.byteTaken + 1) := by
  rcases step_cases hstep with ⟨-, rfl⟩ | ⟨w, rest, -, hw⟩ | ⟨rest, hin, -⟩ | ⟨rest, -, rfl⟩ | ⟨rest, -, rfl⟩
  · exact ⟨.inl rfl, .inl rfl⟩
  · obtain ⟨hpal, hbyte, -⟩ := executeWord_ports hw
    exact ⟨.inl hpal, .inl hbyte⟩
  · exact absurd hin (hreset rest)
  · refine ⟨?_, .inl (takePalWord_byteTaken _)⟩
    rw [takePalWord_palTaken]
    split
    · exact .inr ⟨State.palValid_iff.1 ‹_›, rfl⟩
    · exact .inl rfl
  · refine ⟨.inl (takeByte_palTaken _), ?_⟩
    rw [takeByte_byteTaken]
    split
    · exact .inr ⟨State.byteValid_iff.1 ‹_›, rfl⟩
    · exact .inl rfl

/-! ## The statements on the ports -/

/-- Settles O42: whether a word waits decides both cases. -/
theorem palPortDeliversInOrder : Obligations.PalPortDeliversInOrder := by
  intro s rest hin
  have hstep : step s = .next (takePalWord (s.withInput rest)) := step_of_input_cons hin
  refine ⟨fun v hv => ⟨?_, take_succ_of_getElem? hv⟩, fun hnone => ?_, by rw [State.palValid_eq_isSome]⟩
  · rw [hstep, takePalWord_of_palData_isSome (s := s.withInput rest) (Option.isSome_of_eq_some hv)]
    rfl
  · rw [hstep, takePalWord_of_palData_none (s := s.withInput rest) hnone]
    rfl

/-- Settles O43: whether a byte waits decides both cases. -/
theorem bytePortDeliversInOrder : Obligations.BytePortDeliversInOrder := by
  intro s rest hin
  have hstep : step s = .next (takeByte (s.withInput rest)) := step_of_input_cons hin
  refine ⟨fun v hv => ⟨?_, take_succ_of_getElem? hv⟩, fun hnone => ?_, by rw [State.byteValid_eq_isSome]⟩
  · rw [hstep, takeByte_of_byteData_isSome (s := s.withInput rest) (Option.isSome_of_eq_some hv)]
    rfl
  · rw [hstep, takeByte_of_byteData_none (s := s.withInput rest) hnone]
    rfl

/-- Settles O44: the logs only grow (O32), and each delivered count goes on by at most one waiting item. -/
theorem deliveryIsLosslessAndInOrder : Obligations.DeliveryIsLosslessAndInOrder := by
  intro s t hinv hstep hreset
  obtain ⟨-, hpalq, hbyteq⟩ := flagsAndLogsOnlyGrow s t hstep hreset
  obtain ⟨hpal, hbyte⟩ := step_taken hstep hreset
  exact ⟨List.take_prefix _ _, List.take_prefix _ _,
    take_of_prefix hinv.pal_taken hpalq hpal, take_of_prefix hinv.byte_taken hbyteq hbyte⟩

end Sys2Proof.Machine
end

section
/-! SUPPORT. The bits of a frame's bytes and of its pixels (spec/20_memory.md R31, R32). -/

namespace Sys2Proof.Machine

/-- The stream's earliest bit of a byte is its bit 7 (R31). -/
theorem getLsbD_frameByte (b bits : Nat) (p : List Index) (q : Nat) {j : Nat} (hj : j < 8) :
    (frameByte b bits p q).getLsbD (7 - j) = streamBit b bits p (8 * q + j) := by
  rw [Bool.eq_iff_iff]
  simp only [frameByte, BitVec.getLsbD_ofNat, Nat.testBit_eq_decide_div_mod_eq, Bool.and_eq_true, decide_eq_true_eq]
  rw [← Bool.toNat_eq_one]
  have bit_lt (k : Nat) : (streamBit b bits p (8 * q + k)).toNat < 2 := Bool.toNat_lt _
  have h0 := bit_lt 0; have h1 := bit_lt 1; have h2 := bit_lt 2; have h3 := bit_lt 3
  have h4 := bit_lt 4; have h5 := bit_lt 5; have h6 := bit_lt 6; have h7 := bit_lt 7
  interval_cases j <;> omega

/-- Beyond the frame's bits the stream is the zero pad (R31). -/
theorem streamBit_pad {b bits j : Nat} (p : List Index) (h : bits ≤ j) : streamBit b bits p j = false :=
  if_neg (Nat.not_lt.2 h)

/-- A pixel's bits stand in the stream from the most significant down (R32). -/
theorem streamBit_pixel {b n k m : Nat} (p : List Index) (hk : k < n) (hm : m < b) :
    streamBit b (n * b) p (k * b + m) = (p[k]?.getD 0).getLsbD (b - 1 - m) := by
  have hpos : k * b + m < n * b :=
    calc k * b + m < k * b + b := Nat.add_lt_add_left hm _
      _ = (k + 1) * b := (Nat.succ_mul k b).symm
      _ ≤ n * b := Nat.mul_le_mul_right b hk
  have hdiv : (k * b + m) / b = k := by
    rw [Nat.mul_comm, Nat.mul_add_div (by omega), Nat.div_eq_of_lt hm, Nat.add_zero]
  have hmod : (k * b + m) % b = m := by rw [Nat.mul_add_mod_self_right, Nat.mod_eq_of_lt hm]
  rw [streamBit, if_pos hpos, hdiv, hmod, List.getD_eq_getElem?_getD]

theorem length_packFrame (b w h : Nat) (p : List Index) : (packFrame b w h p).length = byteCount (w * h * b) := by
  rw [packFrame, List.length_map, List.length_range]

theorem getElem?_packFrame {b w h q : Nat} (p : List Index) (hq : q < byteCount (w * h * b)) :
    (packFrame b w h p)[q]? = some (frameByte b (w * h * b) p q) := by
  rw [packFrame, List.getElem?_map, List.getElem?_range hq, Option.map_some]

/-- Settles O45, one clause per lemma on the stream and its bytes. -/
theorem bitOrderOfTheStream : Obligations.BitOrderOfTheStream := by
  intro b w h p _ _ _
  refine ⟨length_packFrame b w h p, fun q j hq hj => ?_, fun j => streamBit_pad p, fun k m => streamBit_pixel p⟩
  rw [getElem?_packFrame p hq, Option.map_some, getLsbD_frameByte b _ p q hj]

end Sys2Proof.Machine
end

section
/-! SUPPORT. The fields of a word as quotients and remainders, and the word back from its fields (R39 to R41). -/

namespace Sys2Proof

variable (w m : Word)

theorem opcodeField_toNat : (opcodeField w).toNat = w.toNat / 2 ^ 24 := by
  have := w.isLt
  rw [opcodeField, BitVec.extractLsb'_toNat, Nat.shiftRight_eq_div_pow]
  omega

theorem operandField_toNat : (operandField w).toNat = w.toNat % 2 ^ 24 := by
  rw [operandField, BitVec.extractLsb'_toNat, Nat.shiftRight_zero]

theorem fieldR_toNat : (fieldR w).toNat = w.toNat / 2 ^ 16 % 2 ^ 8 := by
  rw [fieldR, BitVec.extractLsb'_toNat, Nat.shiftRight_eq_div_pow]

theorem fieldG_toNat : (fieldG w).toNat = w.toNat / 2 ^ 8 % 2 ^ 8 := by
  rw [fieldG, BitVec.extractLsb'_toNat, Nat.shiftRight_eq_div_pow]

theorem imm8_toNat : (imm8 w).toNat = w.toNat % 2 ^ 8 := by
  rw [imm8, BitVec.extractLsb'_toNat, Nat.shiftRight_zero]

theorem imm16_toNat : (imm16 w).toNat = w.toNat % 2 ^ 16 := by
  rw [imm16, BitVec.extractLsb'_toNat, Nat.shiftRight_zero]

theorem reservedB_toNat : (reservedB w).toNat = w.toNat / 2 ^ 8 % 2 ^ 16 := by
  rw [reservedB, BitVec.extractLsb'_toNat, Nat.shiftRight_eq_div_pow]

/-! ## A masked word, field by field -/

theorem opcodeField_and : opcodeField (w &&& m) = opcodeField w &&& opcodeField m := BitVec.extractLsb'_and
theorem fieldR_and : fieldR (w &&& m) = fieldR w &&& fieldR m := BitVec.extractLsb'_and
theorem fieldG_and : fieldG (w &&& m) = fieldG w &&& fieldG m := BitVec.extractLsb'_and
theorem imm8_and : imm8 (w &&& m) = imm8 w &&& imm8 m := BitVec.extractLsb'_and
theorem imm16_and : imm16 (w &&& m) = imm16 w &&& imm16 m := BitVec.extractLsb'_and
theorem reservedB_and : reservedB (w &&& m) = reservedB w &&& reservedB m := BitVec.extractLsb'_and

/-! ## The words of the three formats -/

theorem formatC_toNat (op r g b : BitVec 8) :
    (formatC op r g b).toNat = op.toNat * 2 ^ 24 + r.toNat * 2 ^ 16 + g.toNat * 2 ^ 8 + b.toNat := by
  have hop := opcodeField_toNat (formatC op r g b)
  have hr := fieldR_toNat (formatC op r g b)
  have hg := fieldG_toNat (formatC op r g b)
  have hb := imm8_toNat (formatC op r g b)
  rw [opcodeField_formatC] at hop
  rw [fieldR_formatC] at hr
  rw [fieldG_formatC] at hg
  rw [imm8_formatC] at hb
  omega

theorem formatD_toNat (op : BitVec 8) (d : Dim) : (formatD op d).toNat = op.toNat * 2 ^ 24 + d.toNat := by
  have hop := opcodeField_toNat (formatD op d)
  have hr : (fieldR (formatD op d)).toNat = 0 := congrArg BitVec.toNat (fieldR_formatD op d)
  have hd := imm16_toNat (formatD op d)
  rw [opcodeField_formatD] at hop
  rw [fieldR_toNat] at hr
  rw [imm16_formatD] at hd
  omega

theorem formatB_toNat (op v : BitVec 8) : (formatB op v).toNat = op.toNat * 2 ^ 24 + v.toNat := by
  have hop := opcodeField_toNat (formatB op v)
  have hr : (reservedB (formatB op v)).toNat = 0 := congrArg BitVec.toNat (reservedB_formatB op v)
  have hv := imm8_toNat (formatB op v)
  rw [opcodeField_formatB] at hop
  rw [reservedB_toNat] at hr
  rw [imm8_formatB] at hv
  omega

variable {w}

theorem eq_formatC_iff {op r g b : BitVec 8} :
    w = formatC op r g b ↔ opcodeField w = op ∧ fieldR w = r ∧ fieldG w = g ∧ imm8 w = b := by
  refine ⟨?_, ?_⟩
  · rintro rfl
    simp
  · rintro ⟨rfl, rfl, rfl, rfl⟩
    apply BitVec.eq_of_toNat_eq
    rw [formatC_toNat, opcodeField_toNat, fieldR_toNat, fieldG_toNat, imm8_toNat]
    omega

theorem eq_formatD_iff {op : BitVec 8} {d : Dim} :
    w = formatD op d ↔ opcodeField w = op ∧ fieldR w = 0 ∧ imm16 w = d := by
  refine ⟨?_, ?_⟩
  · rintro rfl
    simp
  · rintro ⟨rfl, hr, rfl⟩
    have hr0 : (fieldR w).toNat = 0 := congrArg BitVec.toNat hr
    rw [fieldR_toNat] at hr0
    apply BitVec.eq_of_toNat_eq
    rw [formatD_toNat, opcodeField_toNat, imm16_toNat]
    omega

theorem eq_formatB_iff {op v : BitVec 8} :
    w = formatB op v ↔ opcodeField w = op ∧ reservedB w = 0 ∧ imm8 w = v := by
  refine ⟨?_, ?_⟩
  · rintro rfl
    simp
  · rintro ⟨rfl, hr, rfl⟩
    have hr0 : (reservedB w).toNat = 0 := congrArg BitVec.toNat hr
    rw [reservedB_toNat] at hr0
    apply BitVec.eq_of_toNat_eq
    rw [formatB_toNat, opcodeField_toNat, imm8_toNat]
    omega

theorem eq_zero_iff_fields : w = 0#32 ↔ opcodeField w = 0#8 ∧ operandField w = 0#24 := by
  simp only [← BitVec.toNat_inj, opcodeField_toNat, operandField_toNat, BitVec.toNat_ofNat]
  omega

/-! ## The masks of the opcode map (R42) -/

theorem and_maskC_eq_iff {op : BitVec 8} : w &&& 0xFF000000#32 = formatC op 0#8 0#8 0#8 ↔ opcodeField w = op := by
  have hop : opcodeField 0xFF000000#32 = BitVec.allOnes 8 := by decide
  have hr : fieldR 0xFF000000#32 = 0#8 := by decide
  have hg : fieldG 0xFF000000#32 = 0#8 := by decide
  have hb : imm8 0xFF000000#32 = 0#8 := by decide
  simp only [eq_formatC_iff, opcodeField_and, fieldR_and, fieldG_and, imm8_and, hop, hr, hg, hb, BitVec.and_allOnes,
    BitVec.and_zero, and_true]

theorem and_maskD_eq_iff {op : BitVec 8} :
    w &&& 0xFFFF0000#32 = formatD op 0#16 ↔ opcodeField w = op ∧ fieldR w = 0 := by
  have hop : opcodeField 0xFFFF0000#32 = BitVec.allOnes 8 := by decide
  have hr : fieldR 0xFFFF0000#32 = BitVec.allOnes 8 := by decide
  have hd : imm16 0xFFFF0000#32 = 0#16 := by decide
  simp only [eq_formatD_iff, opcodeField_and, fieldR_and, imm16_and, hop, hr, hd, BitVec.and_allOnes, BitVec.and_zero,
    and_true]

theorem and_maskB_eq_iff {op : BitVec 8} :
    w &&& 0xFFFFFF00#32 = formatB op 0#8 ↔ opcodeField w = op ∧ reservedB w = 0 := by
  have hop : opcodeField 0xFFFFFF00#32 = BitVec.allOnes 8 := by decide
  have hr : reservedB 0xFFFFFF00#32 = BitVec.allOnes 16 := by decide
  have hv : imm8 0xFFFFFF00#32 = 0#8 := by decide
  simp only [eq_formatB_iff, opcodeField_and, reservedB_and, imm8_and, hop, hr, hv, BitVec.and_allOnes, BitVec.and_zero,
    and_true]

end Sys2Proof
end

section
/-! SUPPORT. What the decoder answers: a command exactly for the command's word, and ILLEGAL with the word itself for every
other word (R42, R45, R47). -/

namespace Sys2Proof

variable {w : Word} {i : Instr}

/-- No two words mean the same command, and every command has a word (R40, R45, D4). -/
theorem decode_eq_legal_iff : decode w = .legal i ↔ w = encode i := by
  refine ⟨fun h => ?_, fun h => h ▸ decode_encode i⟩
  simp only [decode] at h
  split_ifs at h
  all_goals cases h
  · exact eq_zero_iff_fields.2 ⟨‹_›, ‹_›⟩
  · exact eq_formatC_iff.2 ⟨‹_›, rfl, rfl, rfl⟩
  · exact eq_formatD_iff.2 ⟨‹_›, ‹_›, rfl⟩
  · exact eq_formatD_iff.2 ⟨‹_›, ‹_›, rfl⟩
  · exact eq_formatB_iff.2 ⟨‹_›, ‹_›, rfl⟩
  · exact eq_formatB_iff.2 ⟨‹_›, ‹_›, rfl⟩

theorem encode_injective : Function.Injective encode := fun i j h => by
  have hj := decode_encode j
  rw [← h, decode_encode] at hj
  cases hj
  rfl

/-- An illegal word is reported as itself (R47). -/
theorem cmd_eq_of_decode_illegal {why : IllegalReason} {cmd : Word} (h : decode w = .illegal why cmd) : cmd = w := by
  simp only [decode] at h
  split_ifs at h
  all_goals cases h
  all_goals rfl

theorem exists_illegal_iff : (∃ why, decode w = .illegal why w) ↔ ¬ ∃ i, decode w = .legal i := by
  refine ⟨fun ⟨why, hw⟩ ⟨i, hi⟩ => ?_, fun h => ?_⟩
  · rw [hi] at hw
    cases hw
  · cases hd : decode w with
    | legal i => exact absurd ⟨i, hd⟩ h
    | illegal why cmd => exact ⟨why, by rw [cmd_eq_of_decode_illegal hd]⟩

/-- The legal words, by opcode and reserved bits (R42). -/
theorem exists_legal_iff : (∃ i, decode w = .legal i) ↔
    w = 0#32 ∨ opcodeField w = 1#8 ∨ ((opcodeField w = 2#8 ∨ opcodeField w = 3#8) ∧ fieldR w = 0#8) ∨
      ((opcodeField w = 4#8 ∨ opcodeField w = 5#8) ∧ reservedB w = 0#16) := by
  simp only [decode_eq_legal_iff]
  refine ⟨?_, ?_⟩
  · rintro ⟨i, rfl⟩
    cases i with
    | nop => exact .inl rfl
    | packc r g b => exact .inr (.inl (by simp [encode]))
    | setw v | seth v => exact .inr (.inr (.inl (by simp [encode])))
    | start v | push v => exact .inr (.inr (.inr (by simp [encode])))
  · rintro (h | h | ⟨h | h, hr⟩ | ⟨h | h, hr⟩)
    · exact ⟨.nop, h⟩
    · exact ⟨.packc _ _ _, eq_formatC_iff.2 ⟨h, rfl, rfl, rfl⟩⟩
    · exact ⟨.setw _, eq_formatD_iff.2 ⟨h, hr, rfl⟩⟩
    · exact ⟨.seth _, eq_formatD_iff.2 ⟨h, hr, rfl⟩⟩
    · exact ⟨.start _, eq_formatB_iff.2 ⟨h, hr, rfl⟩⟩
    · exact ⟨.push _, eq_formatB_iff.2 ⟨h, hr, rfl⟩⟩

/-- Every command's word matches a row of the opcode map (R42). -/
theorem exists_row_of_encode (i : Instr) : ∃ row ∈ opcodeTable, encode i &&& row.mask = row.pattern := by
  have hrow : Laws.RowMatch.Statement i := by
    cases i with
    | nop => exact Laws.RowMatch.nop
    | packc r g b => exact Laws.RowMatch.packc r g b
    | setw v => exact Laws.RowMatch.setw v
    | seth v => exact Laws.RowMatch.seth v
    | start v => exact Laws.RowMatch.start v
    | push v => exact Laws.RowMatch.push v
  obtain ⟨hmem, -, hmatch⟩ := hrow
  exact ⟨rowOf i, hmem, beq_iff_eq.1 hmatch⟩

/-! ## The statements on the decoder -/

/-- Settles O1: the fields of an encoded command are its operands. -/
theorem decodeOfEncodeIsTheCommand : Obligations.DecodeOfEncodeIsTheCommand :=
  fun i _ => decode_encode i

/-- Settles O2: a legal branch of the decoder has read every bit of the word. -/
theorem legalWordIsTheEncodingOfItsCommand : Obligations.LegalWordIsTheEncodingOfItsCommand :=
  fun _ _ h => (decode_eq_legal_iff.1 h).symm

/-- Settles O3: a mask picks the opcode and the reserved bits, and the other bits are the operands. -/
theorem decoderFollowsTheOpcodeMap : Obligations.DecoderFollowsTheOpcodeMap := by
  intro w
  have hnop : w &&& 0xFFFFFFFF#32 = 0x00000000#32 ↔ decode w = .legal .nop := by
    rw [decode_eq_legal_iff, show (0xFFFFFFFF#32) = BitVec.allOnes 32 from rfl, BitVec.and_allOnes]
    rfl
  have hpackc : w &&& 0xFF000000#32 = 0x01000000#32 ↔
      decode w = .legal (.packc (fieldR w) (fieldG w) (imm8 w)) := by
    rw [decode_eq_legal_iff, encode, eq_formatC_iff, ← and_maskC_eq_iff]
    simp [formatC]
  have hsetw : w &&& 0xFFFF0000#32 = 0x02000000#32 ↔ decode w = .legal (.setw (imm16 w)) := by
    rw [decode_eq_legal_iff, encode, eq_formatD_iff, ← and_assoc, ← and_maskD_eq_iff]
    simp [formatD]
  have hseth : w &&& 0xFFFF0000#32 = 0x03000000#32 ↔ decode w = .legal (.seth (imm16 w)) := by
    rw [decode_eq_legal_iff, encode, eq_formatD_iff, ← and_assoc, ← and_maskD_eq_iff]
    simp [formatD]
  have hstart : w &&& 0xFFFFFF00#32 = 0x04000000#32 ↔ decode w = .legal (.start (imm8 w)) := by
    rw [decode_eq_legal_iff, encode, eq_formatB_iff, ← and_assoc, ← and_maskB_eq_iff]
    simp [formatB]
  have hpush : w &&& 0xFFFFFF00#32 = 0x05000000#32 ↔ decode w = .legal (.push (imm8 w)) := by
    rw [decode_eq_legal_iff, encode, eq_formatB_iff, ← and_assoc, ← and_maskB_eq_iff]
    simp [formatB]
  refine ⟨hnop, hpackc, hsetw, hseth, hstart, hpush, ?_⟩
  rw [exists_illegal_iff]
  refine ⟨fun hill row hrow hmatch => hill ?_, fun hno ⟨i, hi⟩ => ?_⟩
  · simp only [opcodeTable, List.mem_cons, List.not_mem_nil, or_false] at hrow
    rcases hrow with rfl | rfl | rfl | rfl | rfl | rfl
    · exact ⟨_, hnop.1 hmatch⟩
    · exact ⟨_, hpackc.1 hmatch⟩
    · exact ⟨_, hsetw.1 hmatch⟩
    · exact ⟨_, hseth.1 hmatch⟩
    · exact ⟨_, hstart.1 hmatch⟩
    · exact ⟨_, hpush.1 hmatch⟩
  · obtain ⟨row, hmem, hmatch⟩ := exists_row_of_encode i
    rw [decode_eq_legal_iff.1 hi] at hno
    exact hno row hmem hmatch

/-- Settles O4: a word is illegal when it is none of the legal ones, said with its opcode and reserved bits as numbers. -/
theorem illegalWordsAreTheFourCases : Obligations.IllegalWordsAreTheFourCases := by
  intro w
  refine ⟨?_, fun s ⟨why, hd⟩ => Machine.executeWord_illegal hd s⟩
  rw [exists_illegal_iff, exists_legal_iff]
  simp only [← BitVec.toNat_inj, opcodeField_toNat, fieldR_toNat, reservedB_toNat, BitVec.toNat_ofNat]
  omega

/-- Settles O6: the decoder and the encoder run on the words of the examples. -/
theorem encodingExamplesOfTheSpec : Obligations.EncodingExamplesOfTheSpec := by
  unfold Obligations.EncodingExamplesOfTheSpec
  decide

end Sys2Proof
end

section
/-! SUPPORT. How many words decode to a command of a given form: as many as the form has operand values (R46). -/

namespace Sys2Proof

/-- Each operand value has its own word, and no other word decodes to it. -/
theorem ncard_decodesTo {α : Type} {f : α → Instr} (hf : f.Injective) :
    Set.ncard { w : Word | ∃ a, decode w = .legal (f a) } = Nat.card α := by
  have hrange : { w : Word | ∃ a, decode w = .legal (f a) } = Set.range (encode ∘ f) := by
    ext w
    simp only [decode_eq_legal_iff, Set.mem_ofPred_eq, Set.mem_range, Function.comp_apply, eq_comm]
  rw [hrange, Set.ncard_range_of_injective (encode_injective.comp hf)]

theorem card_bitVec (n : Nat) : Nat.card (BitVec n) = 2 ^ n := by
  rw [Nat.card_congr (BitVec.equivFin (m := n)).toEquiv, Nat.card_fin]

/-- A command is one of the six rows with its operands (R42). -/
def instrEquiv : Instr ≃ Unit ⊕ (Channel × Channel × Channel) ⊕ Dim ⊕ Dim ⊕ BppField ⊕ Index where
  toFun
    | .nop => .inl ()
    | .packc r g b => .inr (.inl (r, g, b))
    | .setw w => .inr (.inr (.inl w))
    | .seth h => .inr (.inr (.inr (.inl h)))
    | .start b => .inr (.inr (.inr (.inr (.inl b))))
    | .push p => .inr (.inr (.inr (.inr (.inr p))))
  invFun
    | .inl () => .nop
    | .inr (.inl (r, g, b)) => .packc r g b
    | .inr (.inr (.inl w)) => .setw w
    | .inr (.inr (.inr (.inl h))) => .seth h
    | .inr (.inr (.inr (.inr (.inl b)))) => .start b
    | .inr (.inr (.inr (.inr (.inr p)))) => .push p
  left_inv i := by cases i <;> rfl
  right_inv x := by rcases x with _ | _ | _ | _ | _ | _ <;> rfl

theorem card_instr : Nat.card Instr = 1 + (2 ^ 24 + (2 ^ 16 + (2 ^ 16 + (2 ^ 8 + 2 ^ 8)))) := by
  rw [Nat.card_congr instrEquiv]
  simp only [Nat.card_sum, Nat.card_prod, card_bitVec, Nat.card_unique]
  norm_num

/-- The illegal words are all that no command encodes to. -/
theorem ncard_illegal : Set.ncard { w : Word | ∃ why, decode w = .illegal why w } = 2 ^ 32 - Nat.card Instr := by
  have hcompl : { w : Word | ∃ why, decode w = .illegal why w } = { w : Word | ∃ i, decode w = .legal (id i) }ᶜ := by
    ext w
    exact exists_illegal_iff
  rw [hcompl, Set.ncard_compl, ncard_decodesTo Function.injective_id, card_bitVec]

/-- Settles O5: each row has as many words as operand values, and the rest of the words is illegal. -/
theorem wordCountsOfTheDecoder : Obligations.WordCountsOfTheDecoder := by
  refine ⟨?_, ?_, ?_, ?_, ?_, ?_, ?_⟩
  · simp only [decode_eq_legal_iff]
    exact Set.ncard_singleton _
  · have hpackc : Function.Injective fun x : Channel × Channel × Channel => Instr.packc x.1 x.2.1 x.2.2 :=
      fun ⟨r, g, b⟩ ⟨r', g', b'⟩ h => by simpa using h
    have hcard := ncard_decodesTo hpackc
    simp only [Prod.exists, Nat.card_prod, card_bitVec] at hcard
    exact hcard
  · exact (ncard_decodesTo (f := .setw) fun _ _ h => by cases h; rfl).trans (card_bitVec 16)
  · exact (ncard_decodesTo (f := .seth) fun _ _ h => by cases h; rfl).trans (card_bitVec 16)
  · exact (ncard_decodesTo (f := .start) fun _ _ h => by cases h; rfl).trans (card_bitVec 8)
  · exact (ncard_decodesTo (f := .push) fun _ _ h => by cases h; rfl).trans (card_bitVec 8)
  · rw [ncard_illegal, card_instr]
    norm_num

end Sys2Proof
end

section
/-! SUPPORT. The assembler's words are the encodings of the commands (R49, R50). -/

namespace Sys2Proof

/-- A command as the assembler's statement with the same operands (R49). -/
def Instr.asm : Instr → Asm
  | .nop => .nop
  | .packc r g b => .packc r.toNat g.toNat b.toNat
  | .setw w => .setw w.toNat
  | .seth h => .seth h.toNat
  | .start b => .start b.toNat
  | .push p => .push p.toNat

/-- The words of a list of statements, as `assemble` reads them off their expansions (R49). -/
def asmWords (as : List Asm) : List Word := as.filterMap fun c => c.wordNat.map (BitVec.ofNat 32)

theorem assemble_of_wellFormed {a : Asm} (h : a.wellFormed = true) : assemble a = some (asmWords a.expand) := if_pos h

theorem assemble_of_not_wellFormed {a : Asm} (h : ¬ a.wellFormed = true) : assemble a = none := if_neg h

/-- R49's word of a command is its encoding (R40). -/
theorem wordNat_asm (i : Instr) : i.asm.wordNat = some (encode i).toNat := by
  cases i with
  | nop => rfl
  | packc r g b => rw [encode, formatC_toNat]; rfl
  | setw v | seth v => rw [encode, formatD_toNat]; rfl
  | start v | push v => rw [encode, formatB_toNat]; rfl

theorem asmWords_map_asm (is : List Instr) : asmWords (is.map Instr.asm) = is.map encode := by
  have hword : (fun i : Instr => i.asm.wordNat.map (BitVec.ofNat 32)) = fun i => some (encode i) := by
    funext i
    rw [wordNat_asm, Option.map_some, BitVec.ofNat_toNat, BitVec.setWidth_eq]
  rw [asmWords, List.filterMap_map, ← List.filterMap_eq_map]
  exact congrArg (List.filterMap · is) hword

theorem triplesInRange_iff {e : List (Nat × Nat × Nat)} :
    triplesInRange e = true ↔ ∀ x ∈ e, x.1 < 256 ∧ x.2.1 < 256 ∧ x.2.2 < 256 := by
  simp [triplesInRange, and_assoc]

theorem frameInRange_iff {b w h : Nat} {p : List Nat} : frameInRange b w h p = true ↔
    b < 256 ∧ w < 65536 ∧ h < 65536 ∧ p.length = w * h ∧ ∀ x ∈ p, x < 256 := by
  simp [frameInRange, and_assoc]

/-- Operands in range are the operands of a command; the assembler writes it, or refuses (R49). -/
theorem assemble_eq_ite {a : Asm} {i : Instr} {P : Prop} [Decidable P] (hrange : a.wellFormed = true ↔ P)
    (hasm : P → a = i.asm) : assemble a = if P then some [encode i] else none := by
  split
  · rename_i hp
    have hexpand : i.asm.expand = [i].map Instr.asm := by cases i <;> rfl
    rw [assemble_of_wellFormed (hrange.2 hp), hasm hp, hexpand, asmWords_map_asm]
    rfl
  · rename_i hp
    exact assemble_of_not_wellFormed (mt hrange.1 hp)

/-- Settles O7: a number in range is the value of the operand field that holds it. -/
theorem assemblerWordsAreTheEncodings : Obligations.AssemblerWordsAreTheEncodings := by
  have byte_le {n : Nat} : decide (n < 256) = true ↔ n ≤ 255 := by rw [decide_eq_true_eq, Nat.lt_succ_iff]
  have dim_le {n : Nat} : decide (n < 65536) = true ↔ n ≤ 65535 := by rw [decide_eq_true_eq, Nat.lt_succ_iff]
  have byte_toNat {n : Nat} (hn : n ≤ 255) : (BitVec.ofNat 8 n).toNat = n := Nat.mod_eq_of_lt (by omega)
  have dim_toNat {n : Nat} (hn : n ≤ 65535) : (BitVec.ofNat 16 n).toNat = n := Nat.mod_eq_of_lt (by omega)
  refine ⟨rfl, fun r g b => assemble_eq_ite ?_ fun ⟨hr, hg, hb⟩ => ?_,
    fun w => assemble_eq_ite dim_le fun hw => ?_, fun h => assemble_eq_ite dim_le fun hh => ?_,
    fun b => assemble_eq_ite byte_le fun hb => ?_, fun p => assemble_eq_ite byte_le fun hp => ?_, fun v => ?_⟩
  · simp only [Asm.wellFormed, triplesInRange_iff, List.mem_singleton, forall_eq]
    omega
  · rw [Instr.asm, byte_toNat hr, byte_toNat hg, byte_toNat hb]
  · rw [Instr.asm, dim_toNat hw]
  · rw [Instr.asm, dim_toNat hh]
  · rw [Instr.asm, byte_toNat hb]
  · rw [Instr.asm, byte_toNat hp]
  · have hrange : (Asm.word v).wellFormed = true ↔ v ≤ 0xFFFFFFFF := by
      rw [Asm.wellFormed, decide_eq_true_eq, Nat.lt_succ_iff]
    split
    · exact assemble_of_wellFormed (hrange.2 ‹_›)
    · exact assemble_of_not_wellFormed (mt hrange.1 ‹_›)

/-- PALETTE is one PACKC per entry (R50). -/
theorem assemble_palette (e : List (Channel × Channel × Channel)) :
    assemble (.palette (e.map fun x => (x.1.toNat, x.2.1.toNat, x.2.2.toNat))) =
      some ((e.map fun x => Instr.packc x.1 x.2.1 x.2.2).map encode) := by
  rw [assemble_of_wellFormed, ← asmWords_map_asm]
  · simp only [Asm.expand, paletteExpansion, List.map_map]
    rfl
  · refine triplesInRange_iff.2 fun x hx => ?_
    obtain ⟨c, -, rfl⟩ := List.mem_map.1 hx
    exact ⟨c.1.isLt, c.2.1.isLt, c.2.2.isLt⟩

/-- FRAME is the commands of the frame (R50). -/
theorem assemble_frame {b : BppField} {w h : Dim} {p : List Index} (hlen : p.length = w.toNat * h.toNat) :
    assemble (.frame b.toNat w.toNat h.toNat (p.map BitVec.toNat)) =
      some ((Machine.frameCommands b w h p).map encode) := by
  rw [assemble_of_wellFormed, ← asmWords_map_asm]
  · simp only [Asm.expand, frameExpansion, Machine.frameCommands, List.map_cons, List.map_map]
    rfl
  · refine frameInRange_iff.2 ⟨b.isLt, w.isLt, h.isLt, (List.length_map _).trans hlen, fun x hx => ?_⟩
    obtain ⟨i, -, rfl⟩ := List.mem_map.1 hx
    exact i.isLt

/-- CONVERT is PALETTE, then FRAME, and is refused where one of them is (R50). -/
theorem assemble_convert (b w h : Nat) (e : List (Nat × Nat × Nat)) (p : List Nat) :
    assemble (.convert b w h e p) =
      (assemble (.palette e)).bind fun x => (assemble (.frame b w h p)).map fun y => x ++ y := by
  have hboth : (Asm.convert b w h e p).wellFormed = true ↔
      (Asm.palette e).wellFormed = true ∧ (Asm.frame b w h p).wellFormed = true := Bool.and_eq_true_iff
  by_cases hpal : (Asm.palette e).wellFormed = true
  · by_cases hframe : (Asm.frame b w h p).wellFormed = true
    · rw [assemble_of_wellFormed (hboth.2 ⟨hpal, hframe⟩), assemble_of_wellFormed hpal, assemble_of_wellFormed hframe]
      exact congrArg some List.filterMap_append
    · rw [assemble_of_not_wellFormed fun hc => hframe (hboth.1 hc).2, assemble_of_wellFormed hpal,
        assemble_of_not_wellFormed hframe]
      rfl
  · rw [assemble_of_not_wellFormed fun hc => hpal (hboth.1 hc).1, assemble_of_not_wellFormed hpal]
    rfl

/-- Settles O8, one clause per pseudo-instruction. -/
theorem pseudoInstructionsExpand : Obligations.PseudoInstructionsExpand := by
  refine ⟨fun e => ?_, fun b w h p hlen => assemble_frame hlen, assemble_convert⟩
  rw [assemble_palette, List.map_map]
  rfl

end Sys2Proof
end

section
/-! SUPPORT. The waiting bits and the released bytes of PUSH as bits of the frame's stream (R15, R31, R59). -/

namespace Sys2Proof.Machine

/-- The low `n` bits of `t` are the last `n` of the stream's bits that the first `k` pixels supply, the latest in bit 0. -/
def Waits (b bits : Nat) (p : List Index) (k t n : Nat) : Prop :=
  ∀ j < n, t.testBit j = streamBit b bits p (k * b - 1 - j)

/-- The first `n` bytes of a frame. -/
def frameBytes (b bits : Nat) (p : List Index) (n : Nat) : List Byte := (List.range n).map (frameByte b bits p)

theorem packFrame_eq_frameBytes (b w h : Nat) (p : List Index) :
    packFrame b w h p = frameBytes b (w * h * b) p (byteCount (w * h * b)) := rfl

theorem frameBytes_succ (b bits : Nat) (p : List Index) (n : Nat) :
    frameBytes b bits p (n + 1) = frameBytes b bits p n ++ [frameByte b bits p n] := by
  rw [frameBytes, List.range_succ, List.map_append]
  rfl

variable {b bits k t n q acc : Nat} {p : List Index}

theorem Waits.congr {t' : Nat} (hw : Waits b bits p k t n) (ht : ∀ j < n, t'.testBit j = t.testBit j) :
    Waits b bits p k t' n :=
  fun j hj => (ht j hj).trans (hw j hj)

theorem Waits.mono {n' : Nat} (hw : Waits b bits p k t n) (hn : n' ≤ n) : Waits b bits p k t n' :=
  fun j hj => hw j (hj.trans_le hn)

/-- A pixel's bits go behind those that wait. -/
theorem Waits.join {x : Index} (hw : Waits b (bits * b) p k acc n) (hk : k < bits) (hn : n ≤ k * b)
    (hp : p[k]? = some x) (hx : x.toNat < 2 ^ b) :
    Waits b (bits * b) p (k + 1) (acc * 2 ^ b + x.toNat) (n + b) := by
  intro j hj
  have hnext : (k + 1) * b = k * b + b := Nat.succ_mul k b
  rw [Nat.mul_comm acc, Nat.testBit_two_pow_mul_add _ hx, hnext]
  split
  · have hpixel := streamBit_pixel p hk (show b - 1 - j < b by omega)
    rw [show k * b + b - 1 - j = k * b + (b - 1 - j) by omega, hpixel, hp, Option.getD_some, BitVec.testBit_toNat]
    congr 1
    omega
  · rw [hw (j - b) (by omega)]
    congr 1
    omega

/-- The byte that the 8 earliest waiting bits form is the frame's next byte. -/
theorem Waits.byte_eq (hw : Waits b bits p k t n) (hn : 8 ≤ n) (hq : 8 * q + n = k * b) :
    BitVec.ofNat 8 (t / 2 ^ (n - 8)) = frameByte b bits p q := by
  refine BitVec.eq_of_getLsbD_eq fun i hi => ?_
  have hbit := getLsbD_frameByte b bits p q (show 7 - i < 8 by omega)
  rw [show 7 - (7 - i) = i by omega] at hbit
  rw [hbit, BitVec.getLsbD_ofNat, decide_eq_true hi, Bool.true_and, Nat.testBit_div_two_pow, hw _ (by omega)]
  congr 1
  omega

/-- The pad byte is the frame's last byte: beyond the frame's bits the stream is 0. -/
theorem Waits.pad_eq (hw : Waits b (k * b) p k t n) (hn : n < 8) (hq : 8 * q + n = k * b) :
    BitVec.ofNat 8 (t * 2 ^ (8 - n)) = frameByte b (k * b) p q := by
  refine BitVec.eq_of_getLsbD_eq fun i hi => ?_
  have hbit := getLsbD_frameByte b (k * b) p q (show 7 - i < 8 by omega)
  rw [show 7 - (7 - i) = i by omega] at hbit
  rw [hbit, BitVec.getLsbD_ofNat, decide_eq_true hi, Bool.true_and, Nat.testBit_mul_two_pow]
  by_cases hwait : 8 - n ≤ i
  · rw [decide_eq_true hwait, Bool.true_and, hw _ (by omega)]
    congr 1
    omega
  · rw [decide_eq_false hwait, Bool.false_and, streamBit_pad p (by omega)]

/-- PUSH's datapath takes the stream one pixel on: it releases the frame's next byte or none, and the rest waits (R59). -/
theorem Waits.shiftIn {x : Index} (hw : Waits b (bits * b) p k acc (k * b % 8)) (hk : k < bits) (hb : b ≤ 8)
    (hp : p[k]? = some x) (hx : x.toNat < 2 ^ b) :
    let d := Machine.shiftIn acc (k * b % 8) b x.toNat
    d.n = (k + 1) * b % 8 ∧ Waits b (bits * b) p (k + 1) d.t d.n ∧
      frameBytes b (bits * b) p (k * b / 8) ++ d.bytes = frameBytes b (bits * b) p ((k + 1) * b / 8) := by
  have hjoin := hw.join hk (Nat.mod_le _ 8) hp hx
  have hnext : (k + 1) * b = k * b + b := Nat.succ_mul k b
  rcases shiftIn_cases (acc := acc) (nacc := k * b % 8) hx with ⟨h8, hd⟩ | ⟨h8, hd⟩
  · rw [hd]
    refine ⟨?_, ?_, ?_⟩
    · simp only
      omega
    · refine (hjoin.mono (Nat.sub_le _ 8)).congr fun j hj => ?_
      rw [Nat.testBit_mod_two_pow, decide_eq_true hj, Bool.true_and]
    · rw [hjoin.byte_eq h8 (q := k * b / 8) (by omega), ← frameBytes_succ]
      congr 1
      omega
  · rw [hd]
    refine ⟨?_, hjoin, ?_⟩
    · simp only
      omega
    · rw [List.append_nil]
      congr 1
      omega

/-- After the last pixel the pad completes the frame's bytes (R59, R60). -/
theorem Waits.append_padBytes (hw : Waits b (k * b) p k t (k * b % 8)) :
    frameBytes b (k * b) p (k * b / 8) ++ padBytes t (k * b % 8) = frameBytes b (k * b) p (byteCount (k * b)) := by
  rw [padBytes_eq, byteCount]
  split
  · rw [List.append_nil]
    congr 1
    omega
  · rw [hw.pad_eq (q := k * b / 8) (by omega) (by omega), ← frameBytes_succ]
    congr 1
    omega

end Sys2Proof.Machine
end

section
/-! SUPPORT. The commands of a frame append the frame's bytes (R60, R61). -/

namespace Sys2Proof.Machine

/-- `Emitted s b w h p k m`: in `m` START and the first `k` pixels of `p` have run, the full bytes they fill have been
appended to the BYTEQ of `s`, and their other bits wait in ACC; the frame is whole when it has no more. -/
structure Emitted (s : State) (b : Nat) (w h : Dim) (p : List Index) (k : Nat) (m : State) : Prop where
  pixels : AfterPixels s b w h k m
  waiting : k < w.toNat * h.toNat → Waits b (w.toNat * h.toNat * b) p k m.acc.toNat m.nacc.toNat
  bytes : k < w.toNat * h.toNat → m.byteq = s.byteq ++ frameBytes b (w.toNat * h.toNat * b) p (k * b / 8)
  whole : k = w.toNat * h.toNat → m.byteq = s.byteq ++ packFrame b w.toNat h.toNat p

variable {s m : State} {b k : Nat} {w h : Dim} {p : List Index}

/-- One PUSH appends what the stream's next pixel fills. -/
theorem Emitted.push (a : Emitted s b w h p k m) (hk : k < w.toNat * h.toNat) (hb : b ≤ 8) {x : Index}
    (hp : p[k]? = some x) (hx : x.toNat < 2 ^ b) :
    ∃ m', exec (.push x) m = .next m' ∧ Emitted s b w h p (k + 1) m' := by
  obtain ⟨m', hm', a'⟩ := a.pixels.push hk hb hx
  have hw := a.waiting hk
  have hbytes := a.bytes hk
  obtain ⟨ha, -, rfl, rfl, rfl, hcol, hrow, hpos, hphase, -⟩ := a.pixels.inside hk
  have hlast := State.nextY_eq_height_iff_last hcol hrow
  rw [hpos] at hlast
  have hinside (hin : k + 1 < m.width.toNat * m.height.toNat) : m.nextY ≠ m.height := fun e => hin.ne (hlast.1 e)
  rw [hphase] at hw
  obtain ⟨hn, hwait, hrelease⟩ := hw.shiftIn hk hb hp hx
  have hm : m' = m.advance (shiftIn m.acc.toNat (k * m.bpp.toNat % 8) m.bpp.toNat x.toNat) := by
    rw [exec_push_active ha, State.flagIdx_of_lt hx, maskIdx_eq_mod, Nat.mod_eq_of_lt hx, hphase] at hm'
    cases hm'
    rfl
  refine ⟨m', hm', a', fun hin => ?_, fun hin => ?_, fun hend => ?_⟩
  · rw [hm, State.advance_acc, State.advance_nacc, if_neg (hinside hin), if_neg (hinside hin), BitVec.toNat_ofNat,
      BitVec.toNat_ofNat, Nat.mod_eq_of_lt (show _ < 2 ^ 3 by omega)]
    refine hwait.congr fun j hj => ?_
    rw [Nat.testBit_mod_two_pow, decide_eq_true (show j < 8 by omega), Bool.true_and]
  · rw [hm, State.advance_byteq, if_neg (hinside hin), hbytes, List.append_assoc, hrelease]
  · rw [hn, ← hend] at hwait
    rw [hm, State.advance_byteq, if_pos (hlast.2 hend), hbytes, List.append_assoc,
      ← List.append_assoc (frameBytes _ _ _ _), hrelease, hn, packFrame_eq_frameBytes, ← hend, hwait.append_padBytes]

/-- START has emitted nothing, and the frame with no pixel has no byte (R58, R60). -/
theorem Emitted.start {c : BppField} (idle : s.active = false) (hc1 : 1 ≤ c.toNat) (hc8 : c.toNat ≤ 8) :
    ∃ m, exec (.start c) { s with width := w, height := h } = .next m ∧ Emitted s c.toNat w h p 0 m := by
  obtain ⟨m, hm, a⟩ := exec_start_afterPixels (w := w) (h := h) idle hc1 hc8
  have hbyteq : m.byteq = s.byteq := by
    cases exec_effect hm with
    | startEmpty | startFrame | refused => rfl
  refine ⟨m, hm, a, fun hpos => ?_, fun _ => ?_, fun h0 => ?_⟩
  · have hphase := (a.inside hpos).phase
    rw [Nat.zero_mul, Nat.zero_mod] at hphase
    rw [hphase]
    exact fun j hj => absurd hj (Nat.not_lt_zero j)
  · rw [hbyteq, Nat.zero_mul]
    exact (List.append_nil _).symm
  · rw [hbyteq, packFrame, ← h0, Nat.zero_mul]
    exact (List.append_nil _).symm

/-- PUSH commands run one after the other, each on what the earlier ones reached. -/
theorem executeWords_pushes {P : Nat → State → Prop} (h0 : P 0 m)
    (hpush : ∀ (k : Nat) (x : Index) (m : State), p[k]? = some x → P k m →
      ∃ m', exec (.push x) m = .next m' ∧ P (k + 1) m') :
    ∃ m', executeWords ((p.map Instr.push).map encode) m = .next m' ∧ P p.length m' := by
  induction p generalizing m P with
  | nil => exact ⟨m, rfl, h0⟩
  | cons x p ih =>
    obtain ⟨u, hu, h1⟩ := hpush 0 x m rfl h0
    obtain ⟨m', hm', hend⟩ := ih (P := fun k => P (k + 1)) h1 fun k => hpush (k + 1)
    exact ⟨m', (executeWords_encode_cons hu).trans hm', hend⟩

/-- The commands of a whole frame, from an idle block (R61 (a) to (d)). -/
theorem executeWords_wholeFrame {c : BppField} (idle : s.active = false) (hc1 : 1 ≤ c.toNat) (hc8 : c.toNat ≤ 8)
    (hlen : p.length = w.toNat * h.toNat) (hp : ∀ x ∈ p, x.toNat < 2 ^ c.toNat) :
    ∃ m, executeWords ((frameCommands c w h p).map encode) s = .next m ∧
      Emitted s c.toNat w h p (w.toNat * h.toNat) m := by
  obtain ⟨u, hu, e⟩ := Emitted.start (w := w) (h := h) (p := p) idle hc1 hc8
  obtain ⟨m, hm, em⟩ := executeWords_pushes (P := Emitted s c.toNat w h p) e fun k x m hx ek =>
    ek.push (hlen ▸ (List.getElem?_eq_some_iff.1 hx).1) hc8 hx (hp x (List.mem_of_getElem? hx))
  refine ⟨m, ?_, hlen ▸ em⟩
  rw [frameCommands, executeWords_encode_cons (exec_setw_idle idle w),
    executeWords_encode_cons (exec_seth_idle (by exact idle) h), executeWords_encode_cons hu, hm]

end Sys2Proof.Machine
end

section
/-! SUPPORT. What a command sequence leaves in the palette log and in the input (R9, R54). -/

namespace Sys2Proof.Machine

/-- The palette word a command emits: PACKC's packed colour, and no other (R52, R54). -/
def paletteWord? : Instr → Option PalWord
  | .packc r g b => some (packColor r g b)
  | .nop => none
  | .setw _ => none
  | .seth _ => none
  | .start _ => none
  | .push _ => none

theorem paletteWord?_eq_none {i : Instr} (hi : i.isTransparent = false) : paletteWord? i = none := by
  cases i with
  | nop | packc => cases hi
  | setw | seth | start | push => rfl

variable {s t : State}

theorem Effect.palq {i : Instr} (he : Effect s i t) : t.palq = s.palq ++ (paletteWord? i).toList := by
  cases he with
  | packc r g b => rfl
  | nop | setw | seth | startEmpty | startFrame => exact (List.append_nil _).symm
  | push p _ => simp [paletteWord?]
  | refused i x notTransparent => simp [paletteWord?_eq_none notTransparent]

theorem executeWords_encode_palq {is : List Instr} (h : executeWords (is.map encode) s = .next t) :
    t.palq = s.palq ++ is.filterMap paletteWord? := by
  induction is generalizing s with
  | nil =>
    cases h
    exact (List.append_nil _).symm
  | cons i is ih =>
    obtain ⟨u, hu⟩ := exec_answers_next i s
    rw [executeWords_encode_cons hu] at h
    rw [ih h, (exec_effect hu).palq, List.append_assoc]
    cases hi : paletteWord? i with
    | none => rw [List.filterMap_cons_none hi]; rfl
    | some v => rw [List.filterMap_cons_some hi]; rfl

theorem executeWords_input {ws : List Word} (h : executeWords ws s = .next t) : t.input = s.input := by
  induction ws generalizing s with
  | nil =>
    cases h
    rfl
  | cons w ws ih =>
    obtain ⟨u, hu⟩ := executeWord_answers_next w s
    rw [executeWords_cons hu] at h
    obtain ⟨-, -, hin⟩ := executeWord_ports hu
    exact (ih h).trans hin

end Sys2Proof.Machine
end

section
/-! The statement on CONVERT: its words are its commands', which fill the palette log and then append the frame. -/

namespace Sys2Proof.Machine

/-- The commands of a CONVERT: PALETTE's, then FRAME's (R50). -/
def convertCommands (b : BppField) (w h : Dim) (e : List (Channel × Channel × Channel)) (p : List Index) : List Instr :=
  e.map (fun x => .packc x.1 x.2.1 x.2.2) ++ frameCommands b w h p

theorem frameDuty_iff {bpp w h : Nat} {pixels : List Nat} : frameDuty bpp w h pixels = true ↔
    1 ≤ bpp ∧ bpp ≤ 8 ∧ w < 2 ^ 16 ∧ h < 2 ^ 16 ∧ pixels.length = w * h ∧ ∀ x ∈ pixels, x < 2 ^ bpp := by
  simp only [frameDuty, Bool.and_eq_true, List.all_eq_true, decide_eq_true_eq, and_assoc]
  rfl

/-! ## Numbers in range are the values of operand fields -/

theorem exists_toNat_eq {n v : Nat} (hv : v < 2 ^ n) : ∃ x : BitVec n, x.toNat = v :=
  ⟨BitVec.ofNat n v, Nat.mod_eq_of_lt hv⟩

theorem exists_map_toNat_eq {n : Nat} {l : List Nat} (hl : ∀ v ∈ l, v < 2 ^ n) :
    ∃ p : List (BitVec n), p.map BitVec.toNat = l := by
  change l ∈ Set.range (List.map BitVec.toNat)
  rw [Set.range_list_map]
  exact fun v hv => exists_toNat_eq (hl v hv)

theorem exists_map_channels_eq {l : List (Nat × Nat × Nat)} (hl : triplesInRange l = true) :
    ∃ e : List (Channel × Channel × Channel), e.map (fun x => (x.1.toNat, x.2.1.toNat, x.2.2.toNat)) = l := by
  change l ∈ Set.range (List.map fun x : Channel × Channel × Channel => (x.1.toNat, x.2.1.toNat, x.2.2.toNat))
  rw [Set.range_list_map]
  rintro ⟨r, g, b⟩ hx
  obtain ⟨hr, hg, hb⟩ := triplesInRange_iff.1 hl _ hx
  obtain ⟨r, rfl⟩ := exists_toNat_eq (n := 8) hr
  obtain ⟨g, rfl⟩ := exists_toNat_eq (n := 8) hg
  obtain ⟨b, rfl⟩ := exists_toNat_eq (n := 8) hb
  exact ⟨(r, g, b), rfl⟩

/-! ## The commands of a CONVERT -/

variable {b : BppField} {w h : Dim} {e : List (Channel × Channel × Channel)} {p : List Index}

theorem assemble_convert_eq_convertCommands (hlen : p.length = w.toNat * h.toNat) :
    assemble (.convert b.toNat w.toNat h.toNat (e.map fun x => (x.1.toNat, x.2.1.toNat, x.2.2.toNat))
      (p.map BitVec.toNat)) = some ((convertCommands b w h e p).map encode) := by
  rw [assemble_convert, assemble_palette, assemble_frame hlen, convertCommands, List.map_append]
  rfl

theorem isTransparent_of_mem_frameCommands {i : Instr} (hi : i ∈ frameCommands b w h p) : i.isTransparent = false := by
  simp only [frameCommands, List.mem_cons, List.mem_map] at hi
  rcases hi with rfl | rfl | rfl | ⟨x, -, rfl⟩ <;> rfl

/-- Only the frame's commands touch the Bit Packer (R61). -/
theorem filter_convertCommands :
    (convertCommands b w h e p).filter (fun i => !i.isTransparent) = frameCommands b w h p := by
  rw [convertCommands, List.filter_append, List.filter_eq_nil_iff.2, List.filter_eq_self.2, List.nil_append]
  · intro i hi
    rw [isTransparent_of_mem_frameCommands hi]
    rfl
  · intro i hi
    obtain ⟨x, -, rfl⟩ := List.mem_map.1 hi
    exact Bool.false_ne_true

/-- Only the palette's commands emit palette words (R54). -/
theorem filterMap_convertCommands :
    (convertCommands b w h e p).filterMap paletteWord? = e.map fun x => packColor x.1 x.2.1 x.2.2 := by
  have hpalette : (fun x : Channel × Channel × Channel => paletteWord? (.packc x.1 x.2.1 x.2.2)) =
      fun x => some (packColor x.1 x.2.1 x.2.2) := rfl
  have hframe : (frameCommands b w h p).filterMap paletteWord? = [] :=
    List.filterMap_eq_nil_iff.2 fun _ hi => paletteWord?_eq_none (isTransparent_of_mem_frameCommands hi)
  rw [convertCommands, List.filterMap_append, hframe, List.append_nil, List.filterMap_map, ← List.filterMap_eq_map]
  exact congrArg (List.filterMap · e) hpalette

/-- From an idle block a CONVERT's commands complete the frame, whose bytes they append, and pack the palette (R61, R92). -/
theorem executeWords_convertCommands {s : State} (idle : s.active = false) (hb1 : 1 ≤ b.toNat) (hb8 : b.toNat ≤ 8)
    (hlen : p.length = w.toNat * h.toNat) (hp : ∀ x ∈ p, x.toNat < 2 ^ b.toNat) :
    ∃ t, executeWords ((convertCommands b w h e p).map encode) s = .next t ∧
      t.err = s.err ∧ t.active = false ∧ t.done = true ∧
      t.palq = s.palq ++ e.map (fun x => packColor x.1 x.2.1 x.2.2) ∧
      t.byteq = s.byteq ++ packFrame b.toNat w.toNat h.toNat p := by
  obtain ⟨m, hm, whole⟩ := executeWords_wholeFrame idle hb1 hb8 hlen hp
  rw [← filter_convertCommands (e := e)] at hm
  obtain ⟨q, hq⟩ := executeWords_skip_transparent hm s.palq
  obtain ⟨hactive, hdone⟩ := whole.pixels.complete rfl
  have hpalq := executeWords_encode_palq hq
  rw [filterMap_convertCommands] at hpalq
  exact ⟨m.withPalq q, hq, whole.pixels.err, hactive, hdone, hpalq, whole.whole rfl⟩

/-- Settles O51: the operands are values of operand fields, and the words are those of the CONVERT's commands, which a run
executes one after the other (O40). -/
theorem convertIsAGoodConversion : Obligations.ConvertIsAGoodConversion := by
  intro s bpp w h entries pixels rest idle herr _ hframe htriples
  obtain ⟨hb1, hb8, hw, hh, hlen, hp⟩ := frameDuty_iff.1 hframe
  obtain ⟨b, rfl⟩ := exists_toNat_eq (n := 8) (hb8.trans_lt (by omega))
  obtain ⟨w, rfl⟩ := exists_toNat_eq hw
  obtain ⟨h, rfl⟩ := exists_toNat_eq hh
  obtain ⟨e, rfl⟩ := exists_map_channels_eq htriples
  obtain ⟨p, rfl⟩ := exists_map_toNat_eq (n := 8) fun v hv => (hp v hv).trans_le (Nat.pow_le_pow_right (by omega) hb8)
  rw [List.length_map] at hlen
  obtain ⟨t, ht, hterr, hactive, hdone, hpalq, hbyteq⟩ := executeWords_convertCommands (s := s.withInput rest) (e := e)
    idle hb1 hb8 hlen fun x hx => hp _ (List.mem_map_of_mem hx)
  refine ⟨_, assemble_convert_eq_convertCommands hlen, t, ?_, ?_, executeWords_input ht, ?_, ?_⟩
  · exact (runIsTheFoldOfTheCommands _ _ rest rfl).trans ht
  · have hfree : t.err = 0 := hterr.trans herr
    simp [State.goodConversion, State.errorFree, hfree, hactive, hdone]
  · simp only [hpalq, State.withInput, List.map_map, Function.comp_def, BitVec.ofNat_toNat, BitVec.setWidth_eq]
  · simp only [hbyteq, State.withInput, List.map_map, Function.comp_def, BitVec.ofNat_toNat, BitVec.setWidth_eq,
      List.map_id']

end Sys2Proof.Machine
end

section
/-! SUPPORT. The packed colour in products and remainders: the bits a channel keeps, the pre-swap word, the exchange
of its bytes (R34, R52). -/

namespace Sys2Proof.Machine

/-- A mask of the `n` high bits of an `n + k`-bit number clears its `k` low bits. -/
theorem and_highMask {x : Nat} (n k : Nat) (hx : x < 2 ^ (n + k)) : x &&& ((2 ^ n - 1) <<< k) = (x / 2 ^ k) <<< k := by
  refine Nat.eq_of_testBit_eq fun j => ?_
  rw [Nat.testBit_and, Nat.testBit_shiftLeft, Nat.testBit_shiftLeft, Nat.testBit_two_pow_sub_one,
    Nat.testBit_div_two_pow]
  rcases Nat.lt_or_ge j k with hlow | hk
  · simp [Nat.not_le.2 hlow]
  · rw [Nat.sub_add_cancel hk]
    rcases Nat.lt_or_ge j (n + k) with hj | hhigh
    · simp [hk, show j - k < n by omega]
    · simp [Nat.testBit_lt_two_pow (hx.trans_le (Nat.pow_le_pow_right Nat.two_pos hhigh))]

/-- R52's `w565` as a sum: the three channels' bits do not overlap. -/
theorem join565_eq_add {r g b : Nat} (hr : r < 2 ^ 8) (hg : g < 2 ^ 8) (hb : b < 2 ^ 8) :
    ((r &&& 0xF8) <<< 8) ||| ((g &&& 0xFC) <<< 3) ||| (b >>> 3) =
      r / 2 ^ 3 * 2 ^ 11 + (g / 2 ^ 2 * 2 ^ 5 + b / 2 ^ 3) := by
  have hr5 : r &&& 0xF8 = (r / 2 ^ 3) <<< 3 := and_highMask 5 3 hr
  have hg6 : g &&& 0xFC = (g / 2 ^ 2) <<< 2 := and_highMask 6 2 hg
  rw [hr5, hg6, ← Nat.shiftLeft_add, ← Nat.shiftLeft_add, Nat.shiftRight_eq_div_pow, Nat.lor_assoc,
    join_eq_add _ (show b / 2 ^ 3 < 2 ^ 5 by omega), join_eq_add _ (by omega)]

/-- R34's exchange as a sum. -/
theorem swap_eq_add {w : Nat} (hw : w < 2 ^ 16) :
    ((w &&& 0x00FF) <<< 8) ||| (w >>> 8) = w % 2 ^ 8 * 2 ^ 8 + w / 2 ^ 8 := by
  have hlow : w &&& 0x00FF = w % 2 ^ 8 := Nat.and_two_pow_sub_one_eq_mod w 8
  rw [hlow, Nat.shiftRight_eq_div_pow, join_eq_add _ (by omega)]

variable (r g b r' g' b' : Channel) (w : PalWord)

theorem preSwapWord_toNat :
    (preSwapWord r g b).toNat = r.toNat / 2 ^ 3 * 2 ^ 11 + (g.toNat / 2 ^ 2 * 2 ^ 5 + b.toNat / 2 ^ 3) := by
  rw [preSwapWord, join565_eq_add r.isLt g.isLt b.isLt, BitVec.toNat_ofNat, Nat.mod_eq_of_lt (by omega)]

theorem swapBytes_toNat : (swapBytes w).toNat = w.toNat % 2 ^ 8 * 2 ^ 8 + w.toNat / 2 ^ 8 := by
  have := w.isLt
  rw [swapBytes, swap_eq_add w.isLt, BitVec.toNat_ofNat, Nat.mod_eq_of_lt (by omega)]

/-- The fields of a 3, 5, 5 and 3 bit sum. -/
theorem fields_of_packedSum {x y z u : Nat} (hx : x < 2 ^ 3) (hy : y < 2 ^ 5) (hz : z < 2 ^ 5) (hu : u < 2 ^ 3) :
    (x * 2 ^ 13 + (y * 2 ^ 8 + (z * 2 ^ 3 + u))) / 2 ^ 13 % 2 ^ 3 = x ∧
    (x * 2 ^ 13 + (y * 2 ^ 8 + (z * 2 ^ 3 + u))) / 2 ^ 8 % 2 ^ 5 = y ∧
    (x * 2 ^ 13 + (y * 2 ^ 8 + (z * 2 ^ 3 + u))) / 2 ^ 3 % 2 ^ 5 = z ∧
    (x * 2 ^ 13 + (y * 2 ^ 8 + (z * 2 ^ 3 + u))) / 2 ^ 0 % 2 ^ 3 = u := by
  omega

/-- The packed word as a sum: the exchange of bytes splits green (40_color_packer.md section 2). -/
theorem packColor_toNat : (packColor r g b).toNat =
    g.toNat / 2 ^ 2 % 2 ^ 3 * 2 ^ 13 + (b.toNat / 2 ^ 3 * 2 ^ 8 + (r.toNat / 2 ^ 3 * 2 ^ 3 + g.toNat / 2 ^ 5)) := by
  rw [packColor, swapBytes_toNat, preSwapWord_toNat]
  omega

@[simp] theorem swapBytes_swapBytes : swapBytes (swapBytes w) = w := by
  refine BitVec.eq_of_toNat_eq ?_
  rw [swapBytes_toNat, swapBytes_toNat]
  omega

/-- A packed colour and its pre-swap word determine each other (R34). -/
theorem packColor_eq_iff : packColor r g b = w ↔ preSwapWord r g b = swapBytes w := by
  rw [packColor]
  exact ⟨fun h => h ▸ (swapBytes_swapBytes _).symm, fun h => h ▸ swapBytes_swapBytes w⟩

theorem toNat_and_0xF8 : (r &&& 0xF8#8).toNat = r.toNat / 2 ^ 3 * 2 ^ 3 := by
  rw [BitVec.toNat_and, ← Nat.shiftLeft_eq]
  exact and_highMask 5 3 r.isLt

theorem toNat_and_0xFC : (g &&& 0xFC#8).toNat = g.toNat / 2 ^ 2 * 2 ^ 2 := by
  rw [BitVec.toNat_and, ← Nat.shiftLeft_eq]
  exact and_highMask 6 2 g.isLt

/-- The pre-swap word holds the kept bits of the three channels, and nothing else (R52). -/
theorem preSwapWord_eq_iff : preSwapWord r g b = preSwapWord r' g' b' ↔
    r &&& 0xF8#8 = r' &&& 0xF8#8 ∧ g &&& 0xFC#8 = g' &&& 0xFC#8 ∧ b &&& 0xF8#8 = b' &&& 0xF8#8 := by
  simp only [← BitVec.toNat_inj, preSwapWord_toNat, toNat_and_0xF8, toNat_and_0xFC]
  omega

/-- Every 16-bit word is the pre-swap word of the colour made of its three fields. -/
theorem exists_preSwapWord_eq : ∃ r g b, preSwapWord r g b = w := by
  have := w.isLt
  refine ⟨BitVec.ofNat 8 (w.toNat / 2 ^ 11 * 2 ^ 3), BitVec.ofNat 8 (w.toNat / 2 ^ 5 * 2 ^ 2),
    BitVec.ofNat 8 (w.toNat * 2 ^ 3), BitVec.eq_of_toNat_eq ?_⟩
  simp only [preSwapWord_toNat, BitVec.toNat_ofNat]
  omega

/-! ## The statements on the packed colour -/

/-- Settles O15: the word is PACKC's encoding, and `w565` and `out` are the values of the pre-swap word and of its swap,
which a 16-bit word holds. -/
theorem packcAppendsTheSwappedColour : Obligations.PackcAppendsTheSwappedColour := by
  intro r g b s w565 out
  have hw : w565 = (preSwapWord r g b).toNat :=
    (join565_eq_add r.isLt g.isLt b.isLt).trans (preSwapWord_toNat r g b).symm
  have hout : out = (packColor r g b).toNat := by
    rw [packColor, swapBytes_toNat, ← hw]
    exact swap_eq_add (hw ▸ (preSwapWord r g b).isLt)
  refine ⟨?_, hw ▸ (preSwapWord r g b).isLt, hout ▸ (packColor r g b).isLt, ?_⟩
  · rw [decode_eq_legal_iff]
    refine BitVec.eq_of_toNat_eq ?_
    rw [encode, formatC_toNat, BitVec.toNat_ofNat]
    exact Nat.mod_eq_of_lt (by omega)
  · rw [hout, BitVec.ofNat_toNat, BitVec.setWidth_eq]
    rfl

/-- Settles O16: each field is a quotient and remainder of its word's sum, every word is a pre-swap word, and the exchange of
bytes is its own inverse. -/
theorem packedColourFieldView : Obligations.PackedColourFieldView := by
  refine ⟨fun r g b => ?_, fun v => ?_⟩
  · simp only [← BitVec.toNat_inj, BitVec.extractLsb'_toNat, Nat.shiftRight_eq_div_pow, preSwapWord_toNat,
      packColor_toNat]
    have hr : r.toNat / 2 ^ 3 < 2 ^ 5 := by omega
    have hb : b.toNat / 2 ^ 3 < 2 ^ 5 := by omega
    have hghi : g.toNat / 2 ^ 5 < 2 ^ 3 := by omega
    have hglo : g.toNat / 2 ^ 2 % 2 ^ 3 < 2 ^ 3 := by omega
    rw [Nat.mod_eq_of_lt hr, Nat.mod_eq_of_lt hb, Nat.mod_eq_of_lt hghi]
    exact ⟨by omega, by omega, by omega, fields_of_packedSum hglo hb hr hghi⟩
  · obtain ⟨r, g, b, h⟩ := exists_preSwapWord_eq (swapBytes v)
    exact ⟨r, g, b, (packColor_eq_iff r g b v).2 h⟩

/-- Settles O17: the pre-swap word holds exactly the kept bits, masking keeps them, and the exchange of bytes is its own
inverse. -/
theorem packedColourKeepsSixteenBits : Obligations.PackedColourKeepsSixteenBits := by
  refine ⟨fun r g b => ?_, fun r g b => swapBytes_swapBytes _, fun r g b r' g' b' => ?_⟩
  · rw [packColor, packColor, (preSwapWord_eq_iff ..).2]
    simp only [BitVec.and_assoc, BitVec.and_self, and_self]
  · rw [packColor_eq_iff, packColor, swapBytes_swapBytes, preSwapWord_eq_iff]

end Sys2Proof.Machine
end

section
/-! SUPPORT. What a command word, legal or not, does to PALQ, and that no word but PACKC's sees it (R54, R55). -/

namespace Sys2Proof.Machine

/-- The palette word that a command word emits, if it is a PACKC (R52, R65). -/
def emittedPal? (w : Word) : Option PalWord := (decode w).instr?.bind paletteWord?

variable {s t : State} {w : Word}

theorem emittedPal?_legal {i : Instr} (hd : decode w = .legal i) : emittedPal? w = paletteWord? i := by
  rw [emittedPal?, hd]
  rfl

theorem emittedPal?_illegal {why : IllegalReason} {cmd : Word} (hd : decode w = .illegal why cmd) :
    emittedPal? w = none := by
  rw [emittedPal?, hd]
  rfl

theorem executeWord_palq (h : executeWord w s = .next t) : t.palq = s.palq ++ (emittedPal? w).toList := by
  cases hd : decode w with
  | legal i =>
    rw [executeWord_legal hd] at h
    rw [emittedPal?_legal hd, (exec_effect h).palq]
  | illegal why cmd =>
    obtain rfl := cmd_eq_of_decode_illegal hd
    rw [executeWord_illegal hd] at h
    cases h
    rw [emittedPal?_illegal hd]
    exact (List.append_nil _).symm

theorem executeWords_palq {ws : List Word} (h : executeWords ws s = .next t) :
    t.palq = s.palq ++ ws.filterMap emittedPal? := by
  induction ws generalizing s with
  | nil =>
    cases h
    exact (List.append_nil _).symm
  | cons w ws ih =>
    obtain ⟨u, hu⟩ := executeWord_answers_next w s
    rw [executeWords_cons hu] at h
    rw [ih h, executeWord_palq hu, List.append_assoc]
    cases hw : emittedPal? w with
    | none => rw [List.filterMap_cons_none hw]; rfl
    | some v => rw [List.filterMap_cons_some hw]; rfl

/-- A word that emits no palette word does not see PALQ (R55). -/
theorem executeWord_withPalq (hw : emittedPal? w = none) (h : executeWord w s = .next t) (q : List PalWord) :
    executeWord w (s.withPalq q) = .next (t.withPalq q) := by
  cases hd : decode w with
  | legal i =>
    rw [emittedPal?_legal hd] at hw
    rw [executeWord_legal hd] at h ⊢
    cases i with
    | nop => cases h; rfl
    | packc => cases hw
    | setw | seth | start | push => exact exec_withPalq rfl h q
  | illegal why cmd =>
    obtain rfl := cmd_eq_of_decode_illegal hd
    rw [executeWord_illegal hd] at h ⊢
    cases h
    rfl

theorem executeWord_packc (r g b : Channel) (s : State) :
    executeWord (encode (.packc r g b)) s = .next (s.withPalq (s.palq ++ [packColor r g b])) :=
  executeWord_legal (decode_encode _) s

theorem emittedPal?_of_not_packc (hw : ∀ r g b, decode w ≠ .legal (.packc r g b)) : emittedPal? w = none := by
  cases hd : decode w with
  | legal i =>
    rw [emittedPal?_legal hd]
    cases i with
    | packc r g b => exact absurd hd (hw r g b)
    | nop | setw | seth | start | push => rfl
  | illegal => exact emittedPal?_illegal hd

/-! ## The statements on PACKC among other commands -/

/-- Settles O37: the other word neither sees PALQ nor writes it, and PACKC writes nothing else. -/
theorem packcCommutesWithOtherCommands : Obligations.PackcCommutesWithOtherCommands := by
  intro s r g b w hw
  have hnone := emittedPal?_of_not_packc hw
  obtain ⟨t, ht⟩ := executeWord_answers_next w s
  have hpalq : t.palq = s.palq := by
    rw [executeWord_palq ht, hnone]
    exact List.append_nil _
  calc executeWords [encode (.packc r g b), w] s
      = .next (t.withPalq (s.palq ++ [packColor r g b])) := by
        rw [executeWords_cons (executeWord_packc r g b s), executeWords_cons (executeWord_withPalq hnone ht _),
          executeWords_nil]
    _ = executeWords [w, encode (.packc r g b)] s := by
        rw [executeWords_cons ht, executeWords_cons (executeWord_packc r g b t), executeWords_nil, hpalq]

/-- Settles O38: each word appends the palette word it emits, which is a PACKC's packed colour. -/
theorem palqIsThePackcCommandsInOrder : Obligations.PalqIsThePackcCommandsInOrder := by
  intro cmds s
  obtain ⟨t, ht⟩ := executeWords_answers_next cmds s
  refine ⟨t, ht, (executeWords_palq ht).trans (congrArg (s.palq ++ ·) (List.filterMap_congr fun w _ => ?_))⟩
  rw [emittedPal?]
  cases (decode w).instr? with
  | none => rfl
  | some i => cases i <;> rfl

end Sys2Proof.Machine
end

section
/-! SUPPORT. The words of SETW, SETH, START and PUSH as sums (R49), and the statements on SETW, SETH, START and the idle
status. -/

namespace Sys2Proof.Machine

theorem ofNat_eq_formatD (op : BitVec 8) (d : Dim) : BitVec.ofNat 32 (op.toNat * 2 ^ 24 + d.toNat) = formatD op d := by
  rw [← formatD_toNat, BitVec.ofNat_toNat, BitVec.setWidth_eq]

theorem ofNat_eq_formatB (op v : BitVec 8) : BitVec.ofNat 32 (op.toNat * 2 ^ 24 + v.toNat) = formatB op v := by
  rw [← formatB_toNat, BitVec.ofNat_toNat, BitVec.setWidth_eq]

theorem decode_setwWord (w : Dim) : decode (BitVec.ofNat 32 (0x02000000 + w.toNat)) = .legal (.setw w) :=
  decode_eq_legal_iff.2 (ofNat_eq_formatD 0x02#8 w)

theorem decode_sethWord (h : Dim) : decode (BitVec.ofNat 32 (0x03000000 + h.toNat)) = .legal (.seth h) :=
  decode_eq_legal_iff.2 (ofNat_eq_formatD 0x03#8 h)

theorem decode_startWord (b : BppField) : decode (BitVec.ofNat 32 (0x04000000 + b.toNat)) = .legal (.start b) :=
  decode_eq_legal_iff.2 (ofNat_eq_formatB 0x04#8 b)

theorem decode_pushWord (p : Index) : decode (BitVec.ofNat 32 (0x05000000 + p.toNat)) = .legal (.push p) :=
  decode_eq_legal_iff.2 (ofNat_eq_formatB 0x05#8 p)

/-- START refuses exactly the values below 1 and above 8 (R58, R68). -/
theorem bppInRange_eq_false_iff (b : BppField) : bppInRange b = false ↔ b.toNat < 1 ∨ 8 < b.toNat := by
  rw [← Bool.not_eq_true, bppInRange_iff]
  omega

/-- Once ACTIVE or DONE is 1, every command leaves one of them 1 (R58, R59). -/
theorem Effect.keeps_started {s t : State} {i : Instr} (he : Effect s i t) (hs : s.active = true ∨ s.done = true) :
    t.active = true ∨ t.done = true := by
  cases he with
  | nop | packc | setw | seth | refused => exact hs
  | startEmpty => exact .inr rfl
  | startFrame => exact .inl rfl
  | push p active =>
    by_cases hlast : s.nextY = s.height
    · exact .inr (by simp [hlast])
    · exact .inl (by simp [hlast, active])

/-- Settles O18: the two cases of R56. -/
theorem setwWritesWidthOrIsRefused : Obligations.SetwWritesWidthOrIsRefused :=
  fun w _ => ⟨decode_setwWord w, fun idle => exec_setw_idle idle w, fun active => exec_setw_active active w⟩

/-- Settles O19: the two cases of R57. -/
theorem sethWritesHeightOrIsRefused : Obligations.SethWritesHeightOrIsRefused :=
  fun h _ => ⟨decode_sethWord h, fun idle => exec_seth_idle idle h, fun active => exec_seth_active active h⟩

/-- Settles O20: the word, and the four cases of R58. -/
theorem startBeginsAFrameOrIsRefused : Obligations.StartBeginsAFrameOrIsRefused := by
  intro b s
  refine ⟨decode_startWord b, fun active => exec_start_active active b, fun idle hout => ?_,
    fun idle hb1 hb8 hempty => ?_, fun idle hb1 hb8 hw hh => ?_⟩
  · exact exec_start_outOfRange idle ((bppInRange_eq_false_iff b).2 hout)
  · exact exec_start_empty idle ((bppInRange_iff b).2 ⟨hb1, hb8⟩) (s.frameIsEmpty_iff.2 hempty)
  · exact exec_start_frame idle ((bppInRange_iff b).2 ⟨hb1, hb8⟩) (s.frameIsEmpty_eq_false_iff.2 ⟨hw, hh⟩)

/-- Settles O12: the step changes ACTIVE or DONE, so it is a reset or a command, and no command clears both. -/
theorem idleStatusRecursOnlyByReset : Obligations.IdleStatusRecursOnlyByReset := by
  intro s t hstep hs hactive hdone
  have hne : t.active ≠ s.active ∨ t.done ≠ s.done := by
    rw [hactive, hdone]
    exact hs.imp (fun h => by simp [h]) (fun h => by simp [h])
  rcases step_of_status_changed hstep hne with ⟨hreset, -, -⟩ | ⟨w, rest, i, -, -, he⟩
  · exact hreset
  · have ht := he.keeps_started hs
    simp [hactive, hdone] at ht

end Sys2Proof.Machine
end

section
/-! SUPPORT. PUSH's whole next state, with the datapath in quotients and remainders (R59). -/

namespace Sys2Proof.Machine

variable {acc nacc b v : Nat}

/-- The datapath of PUSH as one value: the waiting bits and the pixel's form one number, whose 8 earliest bits leave as a byte
when there are 8. -/
theorem shiftIn_eq (ha : acc < 2 ^ nacc) (hv : v < 2 ^ b) (hn : nacc ≤ 7) (hb : b ≤ 8) : shiftIn acc nacc b v =
    { bytes := if 8 ≤ nacc + b then [BitVec.ofNat 8 ((acc * 2 ^ b + v) / 2 ^ (nacc + b - 8))] else []
      t := (acc * 2 ^ b + v) % 2 ^ ((nacc + b) % 8)
      n := (nacc + b) % 8 } := by
  rcases shiftIn_cases (acc := acc) (nacc := nacc) hv with ⟨h, e⟩ | ⟨h, e⟩
  · rw [e, if_pos h, show (nacc + b) % 8 = nacc + b - 8 by omega]
  · have hlt := join_lt ha hv
    rw [join_eq_add acc hv] at hlt
    rw [e, if_neg (by omega), Nat.mod_eq_of_lt h, Nat.mod_eq_of_lt hlt]

variable {s : State}

theorem State.flagIdx_eq (p : Index) : s.flagIdx p =
    { s with err := if 2 ^ s.bpp.toNat ≤ p.toNat then s.err ||| 0x2#4 else s.err } := by
  simp only [State.flagIdx, idxOutOfRange_iff]
  split <;> rfl

theorem State.nextX_eq (hx : s.xpos.toNat < s.width.toNat) :
    s.nextX = if s.xpos.toNat + 1 = s.width.toNat then 0 else BitVec.ofNat 16 (s.xpos.toNat + 1) := by
  simp only [State.nextX, atRowEnd_iff hx, BitVec.ofNat_add, BitVec.ofNat_toNat, BitVec.setWidth_eq]
  rfl

theorem State.nextY_eq (hx : s.xpos.toNat < s.width.toNat) :
    s.nextY = if s.xpos.toNat + 1 = s.width.toNat then BitVec.ofNat 16 (s.ypos.toNat + 1) else s.ypos := by
  simp only [State.nextY, atRowEnd_iff hx, BitVec.ofNat_add, BitVec.ofNat_toNat, BitVec.setWidth_eq]
  rfl

/-- The tail of PUSH as one record. -/
theorem State.advance_eq (d : Shifted) : s.advance d =
    { s with
      byteq := s.byteq ++ d.bytes ++ if s.nextY = s.height then padBytes d.t d.n else []
      xpos := s.nextX
      ypos := s.nextY
      acc := if s.nextY = s.height then 0 else BitVec.ofNat 8 d.t
      nacc := if s.nextY = s.height then 0 else BitVec.ofNat 3 d.n
      active := if s.nextY = s.height then false else s.active
      done := if s.nextY = s.height then true else s.done } := by
  rw [State.advance]
  split
  · rw [List.append_assoc]; rfl
  · rw [List.append_nil]; rfl

/-- Settles O21: the invariant gives the waiting bits and the position their ranges, and PUSH is then its flag, its datapath
and its tail. -/
theorem pushSuppliesAPixel : Obligations.PushSuppliesAPixel := by
  intro p s
  refine ⟨decode_pushWord p, fun idle => exec_push_idle idle p, fun active hinv => ?_⟩
  obtain ⟨-, -, -, hx, -, hdone⟩ := hinv.active_geometry active
  have hb := hinv.bpp_le
  have hn : s.nacc.toNat ≤ 7 := by have := s.nacc.isLt; omega
  have hv : p.toNat % 2 ^ s.bpp.toNat < 2 ^ s.bpp.toNat := Nat.mod_lt _ (Nat.two_pow_pos _)
  have ht := join_lt hinv.acc_lt hv
  rw [join_eq_add _ hv] at ht
  have hlast := hinv.nextY_eq_height_iff active
  refine ⟨by omega, ht, ?_⟩
  rw [exec_push_active active, maskIdx_eq_mod, shiftIn_eq hinv.acc_lt hv hn hb, State.advance_eq, padBytes_eq]
  simp only [State.flagIdx_nextX, State.flagIdx_nextY, State.flagIdx_height, hlast, State.nextX_eq hx]
  rw [State.flagIdx_eq, State.nextY_eq hx]
  simp [active, hdone, ite_and]

/-- A whole byte goes through an empty datapath unchanged. -/
theorem shiftIn_wholeByte (p : Index) : shiftIn 0 0 8 p.toNat = { bytes := [p], t := 0, n := 0 } := by
  rw [shiftIn_eq (by decide) p.isLt (by decide) (by decide)]
  simp [Nat.mod_one]

/-- Settles O23: at 8 bits per pixel no bit ever waits (R19 (b), (c)), so each index leaves as it is. -/
theorem pushAtEightBitsEmitsItsIndex : Obligations.PushAtEightBitsEmitsItsIndex := by
  intro p s active hinv hbpp
  have hb : s.bpp.toNat = 8 := by rw [hbpp]; rfl
  have hphase := hinv.active_phase active
  rw [hb, Nat.mul_mod_left] at hphase
  have hacc := hinv.acc_lt
  rw [hphase, Nat.pow_zero, Nat.lt_one_iff] at hacc
  have hp : p.toNat < 2 ^ s.bpp.toNat := by rw [hb]; exact p.isLt
  refine ⟨s.advance { bytes := [p], t := 0, n := 0 }, ?_, ?_, ?_, ?_, ?_⟩
  · rw [exec_push_active active, State.flagIdx_of_lt hp, maskIdx_eq_mod, Nat.mod_eq_of_lt hp, hacc, hphase, hb,
      shiftIn_wholeByte]
  · simp [padBytes]
  · simp
  · simp
  · simp

end Sys2Proof.Machine
end

section
/-! SUPPORT. The bit-serial form of PUSH (R62). -/

namespace Sys2Proof.Machine

variable {b v : Nat}

/-- The earliest bit of an index is its highest (R32). -/
theorem indexBits_succ (b v : Nat) : indexBits (b + 1) v = v.testBit b :: indexBits b v := by
  simp [indexBits, List.range_succ_eq_map, Function.comp_def, Nat.sub_sub, Nat.add_comm]

/-- Shifting in the highest bit of an index, then the others, is shifting in the index. -/
theorem join_succ (acc b v : Nat) :
    (acc * 2 + (v.testBit b).toNat) * 2 ^ b + v % 2 ^ b = acc * 2 ^ (b + 1) + v % 2 ^ (b + 1) := by
  rw [Nat.mod_pow_succ, ← Nat.toNat_testBit]
  ring

/-- The bits that waited, back from the joined ones. -/
theorem join_div {acc v : Nat} (hv : v < 2 ^ b) : (acc * 2 ^ b + v) / 2 ^ b = acc := by
  rw [Nat.mul_comm, Nat.mul_add_div (Nat.two_pow_pos b), Nat.div_eq_of_lt hv, Nat.add_zero]

/-- One bit behind the waiting ones. -/
theorem shiftedBit_eq (acc : Nat) (x : Bool) : (acc <<< 1) ||| x.toNat = acc * 2 + x.toNat :=
  join_eq_add acc x.toNat_lt

/-- R62's loop does what the datapath does. -/
theorem shiftSerial_indexBits {acc : Byte} {nacc : Nat} (ha : acc.toNat < 2 ^ nacc) (hn : nacc ≤ 7) (hb : b ≤ 8) :
    shiftSerial acc nacc (indexBits b v) = shiftIn acc.toNat nacc b (v % 2 ^ b) := by
  induction b generalizing acc nacc with
  | zero => simp [indexBits, shiftSerial, shiftIn, Nat.mod_one, show ¬ 8 ≤ nacc by omega]
  | succ b ih =>
    have hv (b : Nat) : v % 2 ^ b < 2 ^ b := Nat.mod_lt _ (Nat.two_pow_pos b)
    have hbit := (v.testBit b).toNat_lt
    have hacc : acc.toNat * 2 + (v.testBit b).toNat < 2 ^ (nacc + 1) := by rw [Nat.pow_succ]; omega
    rw [indexBits_succ, shiftSerial, shiftedBit_eq, shiftIn_eq ha (hv _) hn hb, ← join_succ]
    split
    · rename_i hfull
      obtain rfl : nacc = 7 := by omega
      have hrest : shiftSerial 0 0 (indexBits b v) = { bytes := [], t := v % 2 ^ b, n := b } :=
        (ih (by decide) (by decide) (by omega)).trans (by simp [shiftIn, show ¬ 8 ≤ b by omega])
      rw [hrest, if_pos (by omega), show 7 + (b + 1) - 8 = b by omega, show (7 + (b + 1)) % 8 = b by omega,
        Nat.mul_add_mod_self_right, Nat.mod_eq_of_lt (hv b), join_div (hv b)]
    · have hfit : (2 : Nat) ^ (nacc + 1) ≤ 2 ^ 8 := Nat.pow_le_pow_right (by decide) (by omega)
      have hto : (BitVec.ofNat 8 (acc.toNat * 2 + (v.testBit b).toNat)).toNat = acc.toNat * 2 + (v.testBit b).toNat :=
        Nat.mod_eq_of_lt (hacc.trans_le hfit)
      rw [ih (hto.symm ▸ hacc) (by omega) (by omega), hto, shiftIn_eq hacc (hv b) (by omega) (by omega),
        Nat.add_assoc nacc, Nat.add_comm 1 b]

/-- Settles O22: outside a frame both forms are refused alike, and during one R62's loop is R59's datapath. -/
theorem pushEqualsItsBitSerialForm : Obligations.PushEqualsItsBitSerialForm := by
  intro p s hinv
  cases hactive : s.active with
  | false => rw [exec_push_idle hactive, execPushSerial, hactive]; rfl
  | true =>
    have hn : s.nacc.toNat ≤ 7 := by have := s.nacc.isLt; omega
    rw [exec_push_active hactive, execPushSerial, hactive, if_pos rfl,
      shiftSerial_indexBits hinv.acc_lt hn hinv.bpp_le, Nat.mod_eq_of_lt (maskIdx_lt _ p)]

end Sys2Proof.Machine
end

section
/-! SUPPORT. A byte string and the indices of a frame as one number, bit by bit (R60, S9). -/

namespace Sys2Proof.Machine

variable {b n k w h : Nat} {p : List Index}

/-- The next index goes behind the earlier ones (R60). -/
theorem concatIndices_concat (b : Nat) (p : List Index) (x : Index) :
    concatIndices b (p ++ [x]) = concatIndices b p * 2 ^ b + x.toNat := by
  simp [concatIndices]

/-- R60's V holds the stream's bits: those of its first `k` pixels in the concatenation of as many. -/
theorem waits_concatIndices (hlen : p.length = n) (hp : ∀ x ∈ p, x.toNat < 2 ^ b) (hk : k ≤ n) :
    Waits b (n * b) p k (concatIndices b (p.take k)) (k * b) := by
  induction k with
  | zero => exact fun j hj => absurd hj (by omega)
  | succ k ih =>
    have hx : p[k]? = some p[k] := List.getElem?_eq_getElem (by omega)
    rw [take_succ_of_getElem? hx, concatIndices_concat, Nat.succ_mul]
    exact (ih (by omega)).join hk le_rfl hx (hp _ (List.getElem_mem _))

/-- Bit `n * b - 1 - j` of V is the stream's bit `j` (R60). -/
theorem testBit_concatIndices (hlen : p.length = n) (hp : ∀ x ∈ p, x.toNat < 2 ^ b) {j : Nat} (hj : j < n * b) :
    (concatIndices b p).testBit j = streamBit b (n * b) p (n * b - 1 - j) := by
  have hw := waits_concatIndices hlen hp le_rfl
  rw [List.take_of_length_le hlen.le] at hw
  exact hw j hj

/-- S9's number is the concatenation of the bytes. -/
theorem bigEndianValue_eq_concatIndices (bs : List Byte) : bigEndianValue bs = concatIndices 8 bs := rfl

/-- The bytes of a frame read as one number hold the frame's stream, the earliest bit highest (R31). -/
theorem testBit_bigEndianValue_packFrame {j : Nat} (hj : j < byteCount (w * h * b) * 8) :
    (bigEndianValue (packFrame b w h p)).testBit j =
      streamBit b (w * h * b) p (byteCount (w * h * b) * 8 - 1 - j) := by
  rw [bigEndianValue_eq_concatIndices, testBit_concatIndices (length_packFrame b w h p) (fun x _ => x.isLt) hj]
  obtain ⟨q, m, hm, hqm⟩ : ∃ q m, m < 8 ∧ byteCount (w * h * b) * 8 - 1 - j = q * 8 + m :=
    ⟨_, _, Nat.mod_lt _ (by decide), (Nat.div_add_mod' _ 8).symm⟩
  have hq : q < byteCount (w * h * b) := by omega
  rw [hqm, streamBit_pixel _ hq hm, getElem?_packFrame p hq, Option.getD_some, Nat.mul_comm q]
  exact getLsbD_frameByte b _ p q hm

/-- A quotient by at least as many bits as there are zeros at the end drops the zeros. -/
theorem mul_two_pow_div (v : Nat) {a e : Nat} (hae : a ≤ e) : v * 2 ^ a / 2 ^ e = v / 2 ^ (e - a) := by
  rw [← Nat.sub_add_cancel hae, Nat.pow_add, Nat.mul_div_mul_right _ _ (Nat.two_pow_pos a), Nat.add_sub_cancel]

/-- Settles O46, byte by byte: a byte that the frame's bits fill, or the last one with the zero pad. -/
theorem frameFunctionClosedForm : Obligations.FrameFunctionClosedForm := by
  intro b w h p _ _ hlen hp
  refine List.map_congr_left fun q hq => ?_
  rw [List.mem_range, byteCount] at hq
  have hw := waits_concatIndices hlen hp le_rfl
  rw [List.take_of_length_le hlen.le] at hw
  have hrest : 8 * q + (w * h * b - 8 * q) = w * h * b := by omega
  have hlow := hw.mono (Nat.sub_le (w * h * b) (8 * q))
  rw [byteCount]
  rcases Nat.lt_or_ge (w * h * b - 8 * q) 8 with hlast | hfull
  · rw [← hlow.pad_eq hlast hrest, show (w * h * b + 7) / 8 - 1 - q = 0 by omega, Nat.mul_zero,
      Nat.pow_zero, Nat.div_one]
    congr 3
    omega
  · rw [← hlow.byte_eq hfull hrest, mul_two_pow_div _ (by omega)]
    congr 3
    omega

/-- Settles O47: bit `i` of what is read back as pixel `k` is the stream's bit that the pixel supplied (R32). -/
theorem frameBytesGiveBackTheIndices : Obligations.FrameBytesGiveBackTheIndices := by
  intro b w h p _ _ hlen hp
  have hlength : (unpackFrame b (w * h) (packFrame b w h p)).length = w * h := by simp [unpackFrame]
  refine List.ext_getElem (hlength.trans hlen.symm) fun k hk hkp => BitVec.eq_of_getLsbD_eq fun i hi => ?_
  have hkn : k < w * h := hlen ▸ hkp
  have hpos : k * b + b ≤ w * h * b := Nat.succ_mul k b ▸ Nat.mul_le_mul_right b hkn
  have hbytes : w * h * b ≤ byteCount (w * h * b) * 8 := by rw [byteCount]; omega
  simp only [unpackFrame, List.getElem_map, List.getElem_range, length_packFrame, BitVec.getLsbD_ofNat, hi, decide_true,
    Bool.true_and, Nat.testBit_mod_two_pow, Nat.testBit_shiftRight]
  rcases Nat.lt_or_ge i b with hib | hbi
  · have hpixel := streamBit_pixel p hkn (show b - 1 - i < b by omega)
    rw [List.getElem?_eq_getElem hkp, Option.getD_some, show b - 1 - (b - 1 - i) = i by omega] at hpixel
    rw [decide_eq_true hib, Bool.true_and, Nat.mul_comm b, Nat.succ_mul k, testBit_bigEndianValue_packFrame (by omega),
      ← hpixel]
    congr 1
    omega
  · have hzero := Nat.testBit_lt_two_pow ((hp _ (List.getElem_mem hkp)).trans_le (Nat.pow_le_pow_right Nat.two_pos hbi))
    rw [decide_eq_false (Nat.not_lt.2 hbi), Bool.false_and, ← BitVec.testBit_toNat, hzero]

end Sys2Proof.Machine
end

section
/-! SUPPORT. The registers a completed frame leaves, and the statement on a frame's commands (R61 (a) to (d)). -/

namespace Sys2Proof.Machine

/-- `Completed b w h m`: in `m` a frame of `w` by `h` pixels of `b` bits has ended: no bit waits, and the position stands below
the last row (R58, R59). -/
structure Completed (b : Nat) (w h : Dim) (m : State) : Prop where
  acc : m.acc = 0
  nacc : m.nacc = 0
  bpp : m.bpp.toNat = b
  width : m.width = w
  height : m.height = h
  xpos : m.xpos = 0
  ypos : m.ypos = if w.toNat * h.toNat = 0 then 0 else h

variable {s m t : State} {b k : Nat} {w h : Dim} {p : List Index}

/-- The PUSH of the last pixel completes the frame (R59). -/
theorem AfterPixels.push_completed (a : AfterPixels s b w h k m) (hk : k + 1 = w.toNat * h.toNat) {x : Index}
    (hm : exec (.push x) m = .next t) : Completed b w h t := by
  obtain ⟨active, -, rfl, rfl, rfl, hx, hy, hpos, -, -⟩ := a.inside (by omega)
  have hlast := (State.nextY_eq_height_iff_last hx hy).2 (hpos ▸ hk)
  rw [exec_push_active active] at hm
  cases hm
  constructor
  case acc => simp [hlast]
  case nacc => simp [hlast]
  case bpp => simp
  case width => simp
  case height => simp
  case xpos => simpa using State.nextX_eq_zero hx hy hlast
  case ypos => rw [if_neg (by omega)]; simpa using hlast

/-- START of a frame with no pixel completes it (R58). -/
theorem exec_start_completed {c : BppField} (idle : s.active = false) (hc : bppInRange c = true)
    (hempty : w.toNat * h.toNat = 0) (hm : exec (.start c) { s with width := w, height := h } = .next m) :
    Completed c.toNat w h m := by
  have hdim : ({ s with width := w, height := h } : State).frameIsEmpty = true := by
    rw [State.frameIsEmpty_iff, ← BitVec.toNat_inj, ← BitVec.toNat_inj]
    exact Nat.mul_eq_zero.1 hempty
  rw [exec_start_empty (by exact idle) hc hdim] at hm
  cases hm
  exact ⟨rfl, rfl, bppRegister_toNat hc, rfl, rfl, rfl, (if_pos hempty).symm⟩

/-- The commands of a whole frame leave the registers of a completed one (R61). -/
theorem executeWords_frameCommands_completed {c : BppField} (idle : s.active = false) (hc1 : 1 ≤ c.toNat)
    (hc8 : c.toNat ≤ 8) (hlen : p.length = w.toNat * h.toNat) (hp : ∀ x ∈ p, x.toNat < 2 ^ c.toNat)
    (hm : executeWords ((frameCommands c w h p).map encode) s = .next m) : Completed c.toNat w h m := by
  rw [frameCommands, executeWords_encode_cons (exec_setw_idle idle w),
    executeWords_encode_cons (exec_seth_idle (by exact idle) h)] at hm
  obtain ⟨u, hu, a⟩ := exec_start_afterPixels (w := w) (h := h) idle hc1 hc8
  rw [executeWords_encode_cons hu] at hm
  rcases List.eq_nil_or_concat p with rfl | ⟨p, x, rfl⟩
  · cases hm
    exact exec_start_completed idle ((bppInRange_iff c).2 ⟨hc1, hc8⟩) hlen.symm hu
  · rw [List.concat_eq_append] at hlen hp hm
    rw [List.length_append, List.length_singleton] at hlen
    obtain ⟨v, hv, av⟩ := a.pushes (p := p) (by omega) hc8 fun y hy => hp y (List.mem_append_left _ hy)
    obtain ⟨t, ht⟩ := exec_answers_next (.push x) v
    rw [List.map_append, List.map_append, executeWords_append hv, List.map_singleton, executeWords_encode_cons ht] at hm
    cases hm
    exact av.push_completed (by omega) ht

/-- Settles O48: NOP and PACKC are skipped, and the frame's commands append its bytes and complete it. -/
theorem frameCommandsAppendTheFrame : Obligations.FrameCommandsAppendTheFrame := by
  intro s b w h p cmds idle hb1 hb8 hlen hp hcmds
  obtain ⟨m, hm, whole⟩ := executeWords_wholeFrame idle hb1 hb8 hlen hp
  obtain ⟨hacc, hnacc, hbpp, hw, hh, hx, hy⟩ := executeWords_frameCommands_completed idle hb1 hb8 hlen hp hm
  obtain ⟨hactive, hdone⟩ := whole.pixels.complete rfl
  have hbyteq := whole.whole rfl
  rw [← hcmds] at hm
  obtain ⟨q, hq⟩ := executeWords_skip_transparent hm s.palq
  refine ⟨m.withPalq q, hq, hbyteq, ?_, hactive, hdone, hacc, hnacc, hbpp, hw, hh, hx, hy, whole.pixels.err⟩
  exact (congrArg List.length hbyteq).trans (by rw [List.length_append, length_packFrame, byteCount])

end Sys2Proof.Machine
end

section
/-! SUPPORT. What a command does to the Bit Packer's registers, and the bytes it appends, depend on those registers alone. -/

namespace Sys2Proof.Machine

/-- The Bit Packer's registers, with no flag, no log and no event (R9). -/
def State.packer (s : State) : State :=
  { s with err := 0, palq := [], byteq := [], palTaken := 0, byteTaken := 0, input := [] }

/-- `Tracks s t u`: `t`, reached from `s`, has the Bit Packer's registers of `u`, and has gained the bytes of `u`. -/
structure Tracks (s t u : State) : Prop where
  packer : t.packer = u.packer
  byteq : t.byteq = s.byteq ++ u.byteq

variable {s t : State}

theorem State.packer_eq_iff : s.packer = t.packer ↔
    s.width = t.width ∧ s.height = t.height ∧ s.bpp = t.bpp ∧ s.xpos = t.xpos ∧ s.ypos = t.ypos ∧
      s.acc = t.acc ∧ s.nacc = t.nacc ∧ s.active = t.active ∧ s.done = t.done := by
  simp [State.packer]

theorem State.flagIdx_packer (p : Index) : (s.flagIdx p).packer = s.packer := by
  unfold State.flagIdx
  split <;> rfl

theorem State.advance_packer (d : Shifted) : (s.advance d).packer = (s.packer.advance d).packer := by
  rw [State.advance, State.advance, apply_ite State.packer, apply_ite State.packer]
  rfl

/-- A command that emits no byte gains none. -/
theorem Tracks.of_byteq {u : State} (hp : t.packer = u.packer) (ht : t.byteq = s.byteq) (hu : u.byteq = []) :
    Tracks s t u :=
  ⟨hp, by rw [ht, hu, List.append_nil]⟩

theorem Tracks.advance (p : Index) (d : Shifted) :
    Tracks s ((s.flagIdx p).advance d) ((s.packer.flagIdx p).advance d) where
  packer := by
    rw [State.advance_packer, State.flagIdx_packer, State.advance_packer (s := s.packer.flagIdx p), State.flagIdx_packer]
    rfl
  byteq := by
    have hY : s.packer.nextY = s.nextY := rfl
    have hH : s.packer.height = s.height := rfl
    have hB : s.packer.byteq = [] := rfl
    simp [hY, hH, hB]

/-- A command sees none of the flags, the logs and the events (R9, R58, R59). -/
theorem exec_packer {i : Instr} (h : exec i s = .next t) : ∃ u, exec i s.packer = .next u ∧ Tracks s t u := by
  rcases exec_cases h with
    ⟨rfl, rfl⟩ | ⟨r, g, b, rfl, rfl⟩ | ⟨v, rfl, hw⟩ | ⟨v, rfl, hv⟩ | ⟨b, rfl, hb⟩ | ⟨p, rfl, hp⟩
  · exact ⟨_, rfl, .of_byteq rfl rfl rfl⟩
  · exact ⟨_, rfl, .of_byteq rfl rfl rfl⟩
  · rcases hw with ⟨active, rfl⟩ | ⟨idle, rfl⟩
    · exact ⟨_, exec_setw_active (by exact active) v, .of_byteq rfl rfl rfl⟩
    · exact ⟨_, exec_setw_idle (by exact idle) v, .of_byteq rfl rfl rfl⟩
  · rcases hv with ⟨active, rfl⟩ | ⟨idle, rfl⟩
    · exact ⟨_, exec_seth_active (by exact active) v, .of_byteq rfl rfl rfl⟩
    · exact ⟨_, exec_seth_idle (by exact idle) v, .of_byteq rfl rfl rfl⟩
  · rcases hb with ⟨active, rfl⟩ | ⟨idle, out, rfl⟩ | ⟨idle, inRange, empty, rfl⟩ | ⟨idle, inRange, nonempty, rfl⟩
    · exact ⟨_, exec_start_active (by exact active) b, .of_byteq rfl rfl rfl⟩
    · exact ⟨_, exec_start_outOfRange (by exact idle) out, .of_byteq rfl rfl rfl⟩
    · exact ⟨_, exec_start_empty (by exact idle) inRange (by exact empty), .of_byteq rfl rfl rfl⟩
    · exact ⟨_, exec_start_frame (by exact idle) inRange (by exact nonempty), .of_byteq rfl rfl rfl⟩
  · rcases hp with ⟨idle, rfl⟩ | ⟨active, rfl⟩
    · exact ⟨_, exec_push_idle (by exact idle) p, .of_byteq rfl rfl rfl⟩
    · exact ⟨_, exec_push_active (by exact active) p, .advance p _⟩

theorem executeWord_packer {w : Word} (h : executeWord w s = .next t) :
    ∃ u, executeWord w s.packer = .next u ∧ Tracks s t u := by
  cases hd : decode w with
  | legal i =>
    rw [executeWord_legal hd] at h ⊢
    exact exec_packer h
  | illegal why cmd =>
    obtain rfl := cmd_eq_of_decode_illegal hd
    rw [executeWord_illegal hd] at h ⊢
    cases h
    exact ⟨_, rfl, .of_byteq rfl rfl rfl⟩

/-- A sequence of command words sees none of them either (R36). -/
theorem executeWords_packer {ws : List Word} (h : executeWords ws s = .next t) :
    ∃ u, executeWords ws s.packer = .next u ∧ Tracks s t u := by
  induction ws generalizing s t with
  | nil =>
    cases h
    exact ⟨_, rfl, .of_byteq rfl rfl rfl⟩
  | cons w ws ih =>
    obtain ⟨v, hv⟩ := executeWord_answers_next w s
    obtain ⟨v', hv', htrack⟩ := executeWord_packer hv
    obtain ⟨u, hu⟩ := executeWords_answers_next ws v'
    rw [executeWords_cons hv] at h
    rw [executeWords_cons hv']
    obtain ⟨x, hx, hpacker, hbyteq⟩ := ih h
    obtain ⟨x', hx', hpacker', hbyteq'⟩ := ih hu
    rw [← htrack.packer, hx] at hx'
    cases hx'
    refine ⟨u, hu, hpacker.trans hpacker'.symm, ?_⟩
    rw [hbyteq, hbyteq', htrack.byteq, List.append_assoc]

/-- An accepted START sets every register of the Bit Packer but the dimensions, and appends no byte (R58). -/
theorem exec_start_packer {b : BppField} (idle : s.active = false) (hb : bppInRange b = true)
    (h : exec (.start b) s = .next t) : t.byteq = s.byteq ∧
      t.packer = { State.reset.freshFrame b with
        width := s.width, height := s.height, active := !s.frameIsEmpty, done := s.frameIsEmpty } := by
  cases hempty : s.frameIsEmpty with
  | true =>
    rw [exec_start_empty idle hb hempty] at h
    cases h
    exact ⟨rfl, rfl⟩
  | false =>
    rw [exec_start_frame idle hb hempty] at h
    cases h
    exact ⟨rfl, rfl⟩

/-- Settles O50: START leaves the two blocks with the same Bit Packer registers, and what follows depends on those alone. -/
theorem framesAreIndependentOfThePast : Obligations.FramesAreIndependentOfThePast := by
  intro s₁ s₂ b cmds idle₁ idle₂ hwidth hheight hb1 hb8
  have hb : bppInRange b = true := (bppInRange_iff b).2 ⟨hb1, hb8⟩
  obtain ⟨m₁, hm₁⟩ := exec_answers_next (.start b) s₁
  obtain ⟨m₂, hm₂⟩ := exec_answers_next (.start b) s₂
  obtain ⟨hbyteq₁, hpacker₁⟩ := exec_start_packer idle₁ hb hm₁
  obtain ⟨hbyteq₂, hpacker₂⟩ := exec_start_packer idle₂ hb hm₂
  have hempty : s₁.frameIsEmpty = s₂.frameIsEmpty := by rw [State.frameIsEmpty, State.frameIsEmpty, hwidth, hheight]
  have hstart : m₁.packer = m₂.packer := by rw [hpacker₁, hpacker₂, hwidth, hheight, hempty]
  obtain ⟨t₁, ht₁⟩ := executeWords_answers_next cmds m₁
  obtain ⟨t₂, ht₂⟩ := executeWords_answers_next cmds m₂
  obtain ⟨u, hu, track₁⟩ := executeWords_packer ht₁
  obtain ⟨u', hu', track₂⟩ := executeWords_packer ht₂
  rw [hstart, hu'] at hu
  cases hu
  refine ⟨t₁, t₂, u.byteq, ?_, ?_, hbyteq₁ ▸ track₁.byteq, hbyteq₂ ▸ track₂.byteq,
    State.packer_eq_iff.1 (track₁.packer.trans track₂.packer.symm)⟩
  · rw [executeWords_cons ((executeWord_legal (decode_encode _) s₁).trans hm₁), ht₁]
  · rw [executeWords_cons ((executeWord_legal (decode_encode _) s₂).trans hm₂), ht₂]

end Sys2Proof.Machine
end

section
/-! SUPPORT. NOP and illegal words, the statements of spec/42_housekeeping.md (R64, R65). -/

namespace Sys2Proof.Machine

theorem decode_nopWord : decode 0x00000000#32 = .legal .nop := decode_encode .nop

@[simp] theorem exec_nop (s : State) : exec .nop s = .next s := rfl

/-- Settles O14: the all-zero word is NOP's encoding, and NOP writes no item of the state (R64). -/
theorem nopLeavesTheState : Obligations.NopLeavesTheState := ⟨decode_nopWord, exec_nop⟩

/-- Settles O25: the step executes the word on the state past the event, and an illegal word raises ILL alone (R65). -/
theorem illegalWordSetsOnlyIll : Obligations.IllegalWordSetsOnlyIll := by
  intro s w why rest hin hd
  calc step s = executeWord w { s with input := rest } := step_of_command hin
    _ = .next (State.setErr .ill { s with input := rest }) := executeWord_illegal hd _
    _ = .next { s with err := s.err ||| 0x8#4, input := rest } := rfl

end Sys2Proof.Machine
end

section
/-! SUPPORT. Which flag a command raises (R67, R74), that a flag rises at no other command, and the statements on PARAM, SEQ and
the priority of the flags. -/

namespace Sys2Proof.Machine

/-- The bit of ERR that holds a flag (R20). -/
def ErrFlag.bit : ErrFlag → Nat
  | .param => 0
  | .idx => 1
  | .seq => 2
  | .ill => 3

/-- The flag a command raises in a state, the sequence test before the operand test (R68 to R70, R74). -/
@[simp] def commandFlag? (s : State) : Instr → Option ErrFlag
  | .nop | .packc _ _ _ => none
  | .setw _ | .seth _ => if s.active then some .seq else none
  | .start b => if s.active then some .seq else if bppInRange b then none else some .param
  | .push p => if s.active then (if idxOutOfRange s.bpp.toNat p then some .idx else none) else some .seq

/-- The flag a command word raises, the decoder's test before all others (R71, R74). -/
def wordFlag? (s : State) (w : Word) : Option ErrFlag :=
  match decode w with
  | .legal i => commandFlag? s i
  | .illegal _ _ => some .ill

/-- What raising a flag, or none, adds to ERR (R73). -/
@[simp] def flagMask : Option ErrFlag → BitVec 4
  | none => 0x0#4
  | some x => x.mask

variable {s t : State} {i : Instr} {w : Word} {x : ErrFlag}

theorem wordFlag?_legal (hd : decode w = .legal i) : wordFlag? s w = commandFlag? s i := by rw [wordFlag?, hd]

theorem wordFlag?_illegal {why : IllegalReason} {cmd : Word} (hd : decode w = .illegal why cmd) :
    wordFlag? s w = some .ill := by rw [wordFlag?, hd]

theorem ErrFlag.getLsbD_mask (x y : ErrFlag) : x.mask.getLsbD y.bit = decide (x = y) := by
  cases x <;> cases y <;> rfl

theorem getLsbD_flagMask {o : Option ErrFlag} : (flagMask o).getLsbD x.bit = true ↔ o = some x := by
  cases o with
  | none => simp
  | some y => simp [ErrFlag.getLsbD_mask]

theorem exec_err (h : exec i s = .next t) : t.err = s.err ||| flagMask (commandFlag? s i) := by
  rcases exec_cases h with
    ⟨rfl, rfl⟩ | ⟨r, g, b, rfl, rfl⟩ | ⟨v, rfl, hw⟩ | ⟨v, rfl, hv⟩ | ⟨b, rfl, hb⟩ | ⟨p, rfl, hp⟩
  · simp
  · simp
  · rcases hw with ⟨active, rfl⟩ | ⟨idle, rfl⟩
    · simp [active]
    · simp [idle]
  · rcases hv with ⟨active, rfl⟩ | ⟨idle, rfl⟩
    · simp [active]
    · simp [idle]
  · rcases hb with ⟨active, rfl⟩ | ⟨idle, out, rfl⟩ | ⟨idle, inRange, -, rfl⟩ | ⟨idle, inRange, -, rfl⟩
    · simp [active]
    · simp [idle, out]
    · simp [idle, inRange]
    · simp [idle, inRange]
  · rcases hp with ⟨idle, rfl⟩ | ⟨active, rfl⟩
    · simp [idle]
    · cases hout : idxOutOfRange s.bpp.toNat p with
      | true => simp [active, hout]
      | false => simp [active, hout]

/-- A command word adds its flag to ERR and nothing else (R20, R74). -/
theorem executeWord_err (h : executeWord w s = .next t) : t.err = s.err ||| flagMask (wordFlag? s w) := by
  cases hd : decode w with
  | legal i =>
    rw [executeWord_legal hd] at h
    rw [wordFlag?_legal hd, exec_err h]
  | illegal why cmd =>
    obtain rfl := cmd_eq_of_decode_illegal hd
    rw [executeWord_illegal hd] at h
    cases h
    rw [wordFlag?_illegal hd]
    rfl

/-- A flag rises only at a word that raises it, and a flag but ILL only at a legal one. -/
theorem commandFlag?_of_rise (h : executeWord w s = .next t) (hs : s.err.getLsbD x.bit = false)
    (ht : t.err.getLsbD x.bit = true) (hx : x ≠ .ill) : ∃ i, decode w = .legal i ∧ commandFlag? s i = some x := by
  rw [executeWord_err h, BitVec.getLsbD_or, hs, Bool.false_or, getLsbD_flagMask] at ht
  cases hd : decode w with
  | legal i => exact ⟨i, rfl, by rw [← wordFlag?_legal hd, ht]⟩
  | illegal why cmd =>
    rw [wordFlag?_illegal hd] at ht
    exact absurd (Option.some.inj ht).symm hx

/-- PARAM is START's, outside a frame, for a bpp out of range (R68). -/
theorem start_of_commandFlag?_param (h : commandFlag? s i = some .param) :
    ∃ b, i = .start b ∧ s.active = false ∧ bppInRange b = false := by
  cases i with
  | start b => exact ⟨b, rfl, by simpa [ite_eq_iff] using h⟩
  | nop | packc | setw | seth | push => simp [ite_eq_iff] at h

/-- SEQ is that of SETW, SETH and START during a frame and of PUSH outside one (R70). -/
theorem outOfSequence_of_commandFlag?_seq (h : commandFlag? s i = some .seq) :
    (s.active = true ∧ ∃ v b, i = .setw v ∨ i = .seth v ∨ i = .start b) ∨ (s.active = false ∧ ∃ p, i = .push p) := by
  cases i with
  | nop | packc => simp at h
  | setw v => exact .inl ⟨by simpa using h, v, 0, .inl rfl⟩
  | seth v => exact .inl ⟨by simpa using h, v, 0, .inr (.inl rfl)⟩
  | start b => exact .inl ⟨by simpa using h, 0, b, .inr (.inr rfl)⟩
  | push p => exact .inr ⟨by simpa using h, p, rfl⟩

/-- Settles O28: what a word adds to ERR is the mask of the one flag it raises, or of none. -/
theorem oneCommandSetsAtMostOneFlag : Obligations.OneCommandSetsAtMostOneFlag := by
  intro w s
  obtain ⟨t, ht⟩ := executeWord_answers_next w s
  refine ⟨t, ht, ?_⟩
  rw [executeWord_err ht]
  congr 1
  cases hd : decode w with
  | illegal why cmd => rw [wordFlag?_illegal hd]; rfl
  | legal i =>
    rw [wordFlag?_legal hd]
    cases i with
    | nop | packc => rfl
    | setw | seth => exact apply_ite flagMask _ _ _
    | start b =>
      simp only [commandFlag?, apply_ite flagMask, ← bppInRange_eq_false_iff, ← Bool.not_eq_true, ite_not]
      rfl
    | push p =>
      simp only [commandFlag?, apply_ite flagMask, idxOutOfRange_iff, ← Bool.not_eq_true, ite_not]
      rfl

/-- Settles O26: the refused START leaves ACTIVE at 0, and PARAM rises at no other command. -/
theorem paramIsRaisedByStartAlone : Obligations.ParamIsRaisedByStartAlone := by
  refine ⟨fun s b p idle hb => ⟨?_, ?_⟩, fun w s t h hs ht => ?_⟩
  · exact exec_start_outOfRange idle ((bppInRange_eq_false_iff b).2 hb)
  · exact exec_push_idle (s := s.setErr .param) idle p
  · obtain ⟨i, hd, hflag⟩ := commandFlag?_of_rise (x := .param) h hs ht (by decide)
    obtain ⟨b, rfl, idle, hb⟩ := start_of_commandFlag?_param hflag
    exact ⟨b, hd, idle, (bppInRange_eq_false_iff b).1 hb⟩

/-- Settles O27: each dropped command by its own equation, and SEQ rises at no other. -/
theorem sequenceErrorsDropTheCommand : Obligations.SequenceErrorsDropTheCommand := by
  refine ⟨fun s active v b => ⟨?_, ?_, ?_⟩, fun s idle p => exec_push_idle idle p, fun w s t h hs ht => ?_⟩
  · exact exec_setw_active active v
  · exact exec_seth_active active v
  · exact exec_start_active active b
  · obtain ⟨i, hd, hflag⟩ := commandFlag?_of_rise (x := .seq) h hs ht (by decide)
    simpa only [hd, Decoded.legal.injEq] using outOfSequence_of_commandFlag?_seq hflag

end Sys2Proof.Machine
end

section
/-! SUPPORT. The statements on the interrupt lines, on an index out of range, and that every step answers. -/

namespace Sys2Proof.Machine

variable {s t : State} {i : Instr}

/-- DONE falls at the START of a frame that has a pixel (R18, R58). -/
theorem Effect.done_falls (he : Effect s i t) (hs : s.done = true) (ht : t.done = false) :
    ∃ b, i = .start b ∧ s.active = false ∧ bppInRange b = true ∧ s.frameIsEmpty = false := by
  cases he with
  | startFrame b idle inRange nonempty => exact ⟨b, rfl, idle, inRange, nonempty⟩
  | startEmpty => cases ht
  | nop | packc | setw | seth | push | refused => simp [hs] at ht

theorem State.irqErr_iff : s.irqErr = true ↔ s.err ≠ 0 := bne_iff_ne

theorem State.irqErr_eq_false_iff : s.irqErr = false ↔ s.err = 0 := bne_eq_false_iff_eq

/-- Settles O13: DONE falls by a reset or a START, and a flag that is 1 stays 1 until a reset. -/
theorem interruptLinesFollowTheFlags : Obligations.InterruptLinesFollowTheFlags := by
  refine ⟨fun s => ⟨rfl, s.irqErr_iff⟩, fun s t hstep (hs : s.done = true) (ht : t.done = false) => ?_,
    fun s t hstep hs ht => ?_, fun s b idle hb1 hb8 hw hh => ?_, rfl, rfl⟩
  · rcases step_of_status_changed hstep (.inr (by simp [hs, ht])) with ⟨hreset, -, -⟩ | ⟨w, rest, i, hin, hd, he⟩
    · exact .inl hreset
    · obtain ⟨b, rfl, idle, inRange, nonempty⟩ := he.done_falls hs ht
      obtain ⟨hb1, hb8⟩ := (bppInRange_iff b).1 inRange
      obtain ⟨hw, hh⟩ := s.frameIsEmpty_eq_false_iff.1 nonempty
      exact .inr ⟨w, b, rest, hin, hd, idle, hb1, hb8, hw, hh⟩
  · by_contra hreset
    obtain ⟨hgrow, -⟩ := flagsAndLogsOnlyGrow s t hstep (not_exists.1 hreset)
    rw [State.irqErr_eq_false_iff.1 ht] at hgrow
    exact State.irqErr_iff.1 hs (hgrow.symm.trans BitVec.and_zero)
  · exact ⟨_, exec_start_frame idle ((bppInRange_iff b).2 ⟨hb1, hb8⟩) (s.frameIsEmpty_eq_false_iff.2 ⟨hw, hh⟩), rfl⟩

/-- PUSH's tail does not see the flags (R59). -/
theorem State.advance_setErr (x : ErrFlag) (d : Shifted) : (s.setErr x).advance d = (s.advance d).setErr x := by
  rw [State.advance_eq, State.advance_eq]
  rfl

/-- Settles O24: the masked index passes the range test and gives the datapath the same bits. -/
theorem indexOutOfRangeIsFlaggedAndMasked : Obligations.IndexOutOfRangeIsFlaggedAndMasked := by
  intro p s active hout
  have hlow : p.toNat % 2 ^ s.bpp.toNat < 2 ^ s.bpp.toNat := Nat.mod_lt _ (Nat.two_pow_pos _)
  have hmasked : (BitVec.ofNat 8 (p.toNat % 2 ^ s.bpp.toNat)).toNat = p.toNat % 2 ^ s.bpp.toNat :=
    (BitVec.toNat_ofNat _ _).trans (Nat.mod_eq_of_lt ((Nat.mod_le _ _).trans_lt p.isLt))
  have hunflagged : s.flagIdx (BitVec.ofNat 8 (p.toNat % 2 ^ s.bpp.toNat)) = s :=
    State.flagIdx_of_lt (hmasked.trans_lt hlow)
  have hflagged : s.flagIdx p = s.setErr .idx := if_pos ((idxOutOfRange_iff _ _).2 hout)
  refine ⟨_, exec_push_active active _, ?_, ?_⟩
  · rw [hunflagged, State.advance_err]
  · rw [exec_push_active active, hflagged, hunflagged, State.advance_setErr, maskIdx_eq_mod, maskIdx_eq_mod, hmasked,
      Nat.mod_mod]
    rfl

/-- Settles O29: the next event answers, a command because its execution does. -/
theorem everyStepOfTheModelAnswersNext : Obligations.EveryStepOfTheModelAnswersNext := by
  intro s
  cases hin : s.input with
  | nil => exact ⟨s, theBlockWaitsWithoutInput s hin⟩
  | cons e rest =>
    rw [step_of_input_cons hin]
    cases e with
    | command w => exact executeWord_answers_next w _
    | reset | takePal | takeByte => exact ⟨_, rfl⟩

end Sys2Proof.Machine
end

section
/-! SUPPORT. The statements on reset, and on the frame geometry that no command changes during a frame. -/

namespace Sys2Proof.Machine

variable {s t : State} {i : Instr}

/-- During a frame SETW, SETH and START are refused, and no other command writes the geometry (R85). -/
theorem Effect.geometry_frozen (he : Effect s i t) (hs : s.active = true) :
    t.width = s.width ∧ t.height = s.height ∧ t.bpp = s.bpp := by
  cases he with
  | nop | packc | refused => exact ⟨rfl, rfl, rfl⟩
  | setw _ idle | seth _ idle | startEmpty _ idle | startFrame _ idle => simp [hs] at idle
  | push p _ => simp

/-- Settles O34: a legal command during a frame keeps the geometry, an illegal word writes ERR alone, and a delivery writes a
count alone. -/
theorem geometryIsFrozenDuringAFrame : Obligations.GeometryIsFrozenDuringAFrame := by
  intro s t hs hstep hreset
  rcases step_cases hstep with ⟨-, rfl⟩ | ⟨w, rest, -, hw⟩ | ⟨rest, hin, -⟩ | ⟨rest, -, rfl⟩ | ⟨rest, -, rfl⟩
  · exact ⟨rfl, rfl, rfl⟩
  · rcases executeWord_cases hw with ⟨i, -, he⟩ | rfl
    · exact he.geometry_frozen hs
    · exact ⟨rfl, rfl, rfl⟩
  · exact absurd hin (hreset rest)
  · exact ⟨takePalWord_width _, takePalWord_height _, takePalWord_bpp _⟩
  · exact ⟨takeByte_width _, takeByte_height _, takeByte_bpp _⟩

/-- Settles O9: each item, status view and valid line of the reset state computes to its value, and every word executes in
every state. -/
theorem resetLeavesEverythingZero : Obligations.ResetLeavesEverythingZero :=
  ⟨rfl, rfl, rfl, rfl, rfl, rfl, rfl, rfl, rfl, rfl, rfl, rfl, rfl, rfl, rfl, rfl, rfl,
    fun w => executeWord_answers_next w State.reset⟩

/-- Settles O10: the step handles the reset event, which keeps the later events alone. -/
theorem resetEventDiscardsEverything : Obligations.ResetEventDiscardsEverything :=
  fun _ _ hin => step_of_input_cons hin

/-- Settles O30: the reset state is the one with no later event. -/
theorem invariantHoldsAtReset : Obligations.InvariantHoldsAtReset := reset_inv []

end Sys2Proof.Machine
end
